-- ==== Sys2Proof/Word.lean ====
section
/-! DEFINITION. The number fields of the messages (R186): one, two and four bytes. -/

namespace Sys2Proof

/-- A one-byte message field: a point, a port, a wave, a level, a tag, a sequence number (R186). -/
abbrev Byte := BitVec 8

/-- A two-byte message field: a bib, a place, a frame sequence, a length (R186). -/
abbrev Half := BitVec 16

/-- A four-byte message field: a race time, a decoder time, a chip code (R186). -/
abbrev Word32 := BitVec 32

end Sys2Proof
end

