-- ==== Sys2Proof/Config.lean ====
section
/-! DEFINITION. The fixed numbers of the part, each with the rule that gives it. The spec leaves no value of an
operation open, so there is no free value here (log entry 1). -/

namespace Sys2Proof.Config

/-- The greatest race time, at which the clock holds and every computed race time saturates (R4). -/
abbrev maxRaceTime : Nat := 4294967295

/-- Milliseconds between two SYNC pulses (R7). -/
abbrev pulsePeriod : Nat := 1000

/-- Reads in flight that one mat port allows (R19, R30). -/
abbrev creditBudget : Nat := 32

/-- Unreported credits that are sent at once (R29). -/
abbrev creditBatch : Nat := 8

/-- Elapsed milliseconds of silence that take a mat port DOWN (R21). -/
abbrev matSilence : Nat := 3000

/-- Elapsed milliseconds of silence that take a screen link DOWN (R151). -/
abbrev screenSilence : Nat := 15000

/-- Elapsed milliseconds of silence that take a control link DOWN (R160). -/
abbrev controlSilence : Nat := 10000

/-- Records that a sync history holds (R35). -/
abbrev historySize : Nat := 64

/-- Age in milliseconds at which a SYNC REPORT is late (R36). -/
abbrev lateWindow : Nat := 800

/-- Race time a history must span before a rate is computed (R40). -/
abbrev rateSpan : Nat := 30000

/-- The clamp of the rate correction, in ppm (R41). -/
abbrev rateLimit : Int := 200

/-- Passages that one port's list holds (R55). -/
abbrev passageListSize : Nat := 128

/-- Records that the runner table holds (R75). -/
abbrev runnerTableSize : Nat := 32768

/-- Chips that one runner holds (R75). -/
abbrev chipsPerRunner : Nat := 2

/-- Mat ports that one point may be fed by (R72). -/
abbrev portsPerPoint : Nat := 2

/-- The value at which a place counter stays (R81). -/
abbrev maxPlace : Nat := 65535

/-- The slowest pace that is shown, in seconds per kilometre (R117). -/
abbrev slowestPace : Nat := 3599

/-- The projected finish, in milliseconds, from which no projection is given (R119). -/
abbrev projectionCap : Nat := 86400000

/-- Entries that the Park List holds (R126). -/
abbrev parkListSize : Nat := 64

/-- Entries that one READ PARK LIST returns (R134). -/
abbrev parkPage : Nat := 8

/-- Items that a due queue holds (R141). -/
abbrev dueQueueSize : Nat := 64

/-- Queued items that one READ SCREEN returns (R156). -/
abbrev screenPage : Nat := 8

/-- Bibs that the watch list holds (R171). -/
abbrev watchListSize : Nat := 16

/-- Entries that the watch log holds (R172). -/
abbrev watchLogSize : Nat := 64

/-- Greatest body length of a frame (R186). -/
abbrev maxBody : Nat := 1024

/-- Elapsed milliseconds allowed between two bytes of a frame (R187). -/
abbrev byteGap : Nat := 20

/-- Greatest length of a runner's name (R75). -/
abbrev nameLength : Nat := 12

end Sys2Proof.Config
end

