-- ==== Sys2Proof/Syntax.lean ====
section
/-! DEFINITION. The commands of the part, one constructor per row of spec/opcode_table.json. An operand that is a
field of a message has the field's width (R188, R190), so that a value out of the field's range can be sent and refused;
an operand that names a physical link or a part of one is a number of that link's range. -/

namespace Sys2Proof

/-- The two control links: A to race control, B to the station terminal (00_scope.md, Parties). -/
inductive Side where
  | a
  | b
  deriving DecidableEq, Repr

/-- The other control link. -/
def Side.other : Side → Side
  | .a => .b
  | .b => .a

/-- A mat port, 0 to 11. -/
abbrev Port := Fin 12

/-- A screen port, 0 to 7. -/
abbrev ScreenNo := Fin 8

/-- A timing point of the course, 0 to 9. -/
abbrev Point := Fin 10

/-- A wave, 0 to 15. -/
abbrev Wave := Fin 16

/-- A runner's name as its character codes (00_scope.md, Conventions). -/
abbrev Name := List Byte

/-- One of the twenty-two serial links of the part (R186). -/
inductive LinkId where
  | mat (p : Port)
  | screen (k : ScreenNo)
  | control (l : Side)
  deriving DecidableEq, Repr

/-- The two causes of a station reset (R185). -/
inductive StationCause where
  | resetLine
  | restart
  deriving DecidableEq, Repr

/-- The arguments of SET LIMITS, each optional (R74). -/
structure LimitsArgs where
  minPace         : Option Half
  confirmWindow   : Option Half
  dwellGap        : Option Half
  maxDwell        : Option Half
  projectionFloor : Option Half
  staleHorizon    : Option Half
  deriving DecidableEq, Repr

/-- The arguments of SET PROFILE after the screen number; the five fields with a default are optional (R138). -/
structure ProfileArgs where
  enabled        : Option Bool
  trigger        : Byte
  gap            : Half
  lead           : Half
  defaultPace    : Option Half
  lines          : Byte
  hold           : Option Half
  stale          : Option Half
  waves          : List Byte
  showEstimated  : Bool
  showProjection : Bool
  pollHold       : Option Half
  deriving DecidableEq, Repr

/-- The commands of the part: every message, deadline, pin event and reset that changes its state, in the order of
spec/opcode_table.json. `l` is the control link a COMMAND arrives on and `tag` its tag (R160, R188). -/
inductive Instr where
  | powerOn
  | stationReset (cause : StationCause)
  | startUpEnd
  | countedMillisecond
  | refLoss
  | refReturn
  | matHello (p : Port)
  | read (p : Port) (seq : Byte) (chip : Word32) (dtime : Word32) (level : Byte)
  | syncReport (p : Port) (dtime : Word32)
  | matSilenceDeadline (p : Port)
  | discardedFrame (link : LinkId)
  | byteGapTimeout (link : LinkId)
  | staleDeadline (p : Port)
  | readCompletion
  | closeDeadline (p : Port) (chip : Word32)
  | dueDeadline (k : ScreenNo)
  | lineExpiry (k : ScreenNo) (line : Fin 4)
  | screenHello (k : ScreenNo)
  | frameRequest (k : ScreenNo) (last : Half) (wait : Bool)
  | holdDeadline (k : ScreenNo)
  | screenSilenceDeadline (k : ScreenNo)
  | controlSilenceDeadline (l : Side)
  | unknownKind (l : Side) (tag : Byte)
  | status (l : Side) (tag : Byte)
  | readRunner (l : Side) (tag : Byte) (bib : Half)
  | readPort (l : Side) (tag : Byte) (port : Byte)
  | readScreen (l : Side) (tag : Byte) (screen : Byte)
  | readParkList (l : Side) (tag : Byte) (start : Option Byte)
  | readTallies (l : Side) (tag : Byte)
  | readWatchLog (l : Side) (tag : Byte) (count : Byte)
  | readConditions (l : Side) (tag : Byte)
  | ackConditions (l : Side) (tag : Byte) (conds : List Byte)
  | setMask (l : Side) (tag : Byte) (conds : List Byte)
  | claim (l : Side) (tag : Byte)
  | seize (l : Side) (tag : Byte)
  | release (l : Side) (tag : Byte)
  | pass (l : Side) (tag : Byte)
  | startClock (l : Side) (tag : Byte) (preset : Option Word32)
  | stopClock (l : Side) (tag : Byte)
  | gun (l : Side) (tag : Byte) (wave : Byte) (time : Option Word32)
  | setPoint (l : Side) (tag : Byte) (point : Byte) (distance : Half) (policy : Byte) (display : Bool)
  | clearPoint (l : Side) (tag : Byte) (point : Byte)
  | setPort (l : Side) (tag : Byte) (port : Byte) (point : Option Byte) (allowance : Option Half)
  | setLimits (l : Side) (tag : Byte) (limits : LimitsArgs)
  | setProfile (l : Side) (tag : Byte) (screen : Byte) (profile : ProfileArgs)
  | register (l : Side) (tag : Byte) (bib : Half) (wave : Byte) (chips : List Word32) (name : Option Name)
  | remove (l : Side) (tag : Byte) (bib : Half)
  | setName (l : Side) (tag : Byte) (bib : Half) (name : Option Name)
  | amend (l : Side) (tag : Byte) (bib : Half) (point : Byte) (time : Word32)
  | amendClear (l : Side) (tag : Byte) (bib : Half) (point : Byte)
  | accept (l : Side) (tag : Byte) (bib : Half) (point : Byte)
  | withdraw (l : Side) (tag : Byte) (bib : Half)
  | disqualify (l : Side) (tag : Byte) (bib : Half)
  | reinstate (l : Side) (tag : Byte) (bib : Half)
  | bind (l : Side) (tag : Byte) (chip : Word32) (bib : Half)
  | discard (l : Side) (tag : Byte) (chip : Word32)
  | setWatch (l : Side) (tag : Byte) (bibs : List Half)
  | setTally (l : Side) (tag : Byte) (tally : Byte) (cls : Byte) (qualifiers : List Byte) (limit : Option Word32) (stop : Bool)
  | freeze (l : Side) (tag : Byte) (triggers : Option (List Byte))
  | thaw (l : Side) (tag : Byte)
  | clearTallies (l : Side) (tag : Byte)
  | store (l : Side) (tag : Byte)
  | eraseCompletion
  | writeCompletion
  | raceReset (l : Side) (tag : Byte)
  | raceResetCompletion
  | restart (l : Side) (tag : Byte)
  | runnerRecordClearing (bib : Half)
  deriving DecidableEq, Repr

end Sys2Proof
end

