-- ==== Sys2Proof/WellFormed.lean ====
section
/-! DEFINITION. Which commands a frame can carry: the count byte of a list (R190) and the body limit of a frame (R186)
bound the operands that have a length. Every other operand is bounded by its type. -/

namespace Sys2Proof

/-- A list or a name is preceded by one count byte (R190). -/
def fitsCount {α : Type} (l : List α) : Bool := l.length ≤ 255

/-- Bytes of an optional argument whose value takes `n` bytes (R190). -/
def optSize (present : Bool) (n : Nat) : Nat := if present then n + 1 else 1

/-- Bytes of the body of a COMMAND before its arguments: tag and kind (R188). -/
def commandHead : Nat := 2

/-- Bytes of the COMMAND body of those commands whose body has a list or a name; 0 for every other command, whose body
is far below the limit. -/
def Instr.listBodyLength : Instr → Nat
  | .ackConditions _ _ conds => commandHead + 1 + conds.length
  | .setMask _ _ conds => commandHead + 1 + conds.length
  | .setProfile _ _ _ p => commandHead + 1 + optSize p.enabled.isSome 1 + 5 + optSize p.defaultPace.isSome 2 + 1
      + optSize p.hold.isSome 2 + optSize p.stale.isSome 2 + (1 + p.waves.length) + 2 + optSize p.pollHold.isSome 2
  | .register _ _ _ _ chips name => commandHead + 3 + (1 + 4 * chips.length)
      + optSize name.isSome (1 + (name.getD []).length)
  | .setName _ _ _ name => commandHead + 2 + optSize name.isSome (1 + (name.getD []).length)
  | .setWatch _ _ bibs => commandHead + 1 + 2 * bibs.length
  | .setTally _ _ _ _ qualifiers limit _ => commandHead + 2 + (1 + qualifiers.length) + optSize limit.isSome 4 + 1
  | .freeze _ _ triggers => commandHead + optSize triggers.isSome (1 + (triggers.getD []).length)
  | _ => 0

/-- Every list and every name of the command fits its count byte (R190). -/
def Instr.countsFit : Instr → Bool
  | .ackConditions _ _ conds => fitsCount conds
  | .setMask _ _ conds => fitsCount conds
  | .setProfile _ _ _ p => fitsCount p.waves
  | .register _ _ _ _ chips name => fitsCount chips && fitsCount (name.getD [])
  | .setName _ _ _ name => fitsCount (name.getD [])
  | .setWatch _ _ bibs => fitsCount bibs
  | .setTally _ _ _ _ qualifiers _ _ => fitsCount qualifiers
  | .freeze _ _ triggers => fitsCount (triggers.getD [])
  | _ => true

/-- The command can be carried by one frame: its lists fit their count bytes and its body fits the frame (R186, R190). -/
def Instr.wellFormed (i : Instr) : Bool :=
  i.countsFit && decide (i.listBodyLength ≤ Config.maxBody)

end Sys2Proof
end

