-- ==== Sys2Proof/Decode.lean ====
section
/-! DEFINITION. The command a word spells by the bits of spec/opcode_table.json, and the bytes of the messages the part
receives (R186 to R190): an encoder and a decoder for every message of the three kinds of link. -/

namespace Sys2Proof

/-- The command that the table's bits of a word spell. The table gives no row any bits, so no word spells a command
(log entry 3). -/
def decodeTableWord (_nbits _w : Nat) : Option Instr := none

/-! ## Writing fields (R186, R190) -/

/-- A two-byte number, most significant byte first (R186). -/
def putHalf (v : Half) : List Byte := [v.extractLsb' 8 8, v.extractLsb' 0 8]

/-- A four-byte number, most significant byte first (R186). -/
def putWord (v : Word32) : List Byte :=
  [v.extractLsb' 24 8, v.extractLsb' 16 8, v.extractLsb' 8 8, v.extractLsb' 0 8]

/-- A flag is one byte, 0 or 1 (R190). -/
def putFlag (b : Bool) : List Byte := [if b then 1 else 0]

/-- An optional argument after its presence byte, 0 or 1 (R190). -/
def putOpt {α : Type} (put : α → List Byte) : Option α → List Byte
  | none => [0]
  | some a => 1 :: put a

/-- A value or a word in its place, after a presence byte, 1 or 2 (R190). -/
def putChoice {α : Type} (put : α → List Byte) : Option α → List Byte
  | none => [2]
  | some a => 1 :: put a

/-- A list after its count byte (R190); a name is a list of characters. -/
def putList {α : Type} (put : α → List Byte) (l : List α) : List Byte := BitVec.ofNat 8 l.length :: l.flatMap put

/-- A one-byte field. -/
def putByte (b : Byte) : List Byte := [b]

/-- A name: its length and its characters (R190). -/
def putName (n : Name) : List Byte := putList putByte n

/-! ## Reading fields -/

/-- A reader takes what it reads from the front of the bytes; it fails when the bytes run short or do not fit. -/
abbrev FieldReader := StateT (List Byte) Option

/-- The next byte. -/
def readByte : FieldReader Byte := fun bs =>
  match bs with
  | [] => none
  | b :: rest => some (b, rest)

/-- A two-byte number (R186). -/
def readHalf : FieldReader Half := do
  let hi ← readByte
  let lo ← readByte
  pure (hi ++ lo)

/-- A four-byte number (R186). -/
def readWord : FieldReader Word32 := do
  let hi ← readHalf
  let lo ← readHalf
  pure (hi ++ lo)

/-- A flag: 0 or 1 (R190). Any other byte does not fit (DESIGN CHOICE, log entry 5). -/
def readFlag : FieldReader Bool := do
  let b ← readByte
  if b = 0 then pure false else if b = 1 then pure true else failure

/-- An optional argument after its presence byte (R190). -/
def readOpt {α : Type} (read : FieldReader α) : FieldReader (Option α) := do
  let b ← readByte
  if b = 0 then pure none else if b = 1 then some <$> read else failure

/-- A value or a word in its place, after a presence byte (R190). -/
def readChoice {α : Type} (read : FieldReader α) : FieldReader (Option α) := do
  let b ← readByte
  if b = 1 then some <$> read else if b = 2 then pure none else failure

/-- `n` members one after another. -/
def readMany {α : Type} (read : FieldReader α) : Nat → FieldReader (List α)
  | 0 => pure []
  | n + 1 => do
    let a ← read
    let rest ← readMany read n
    pure (a :: rest)

/-- A list after its count byte (R190). -/
def readList {α : Type} (read : FieldReader α) : FieldReader (List α) := do
  let n ← readByte
  readMany read n.toNat

/-- A name: its length and its characters (R190). -/
def readName : FieldReader Name := readList readByte

/-! ## The commands of the control links (R162, R190) -/

/-- The arguments of SET LIMITS: the six limits in the order of R74, each optional. -/
def putLimits (a : LimitsArgs) : List Byte :=
  putOpt putHalf a.minPace ++ putOpt putHalf a.confirmWindow ++ putOpt putHalf a.dwellGap ++ putOpt putHalf a.maxDwell
    ++ putOpt putHalf a.projectionFloor ++ putOpt putHalf a.staleHorizon

/-- Read the arguments of SET LIMITS. -/
def readLimits : FieldReader LimitsArgs := do
  let minPace ← readOpt readHalf
  let confirmWindow ← readOpt readHalf
  let dwellGap ← readOpt readHalf
  let maxDwell ← readOpt readHalf
  let projectionFloor ← readOpt readHalf
  let staleHorizon ← readOpt readHalf
  pure { minPace, confirmWindow, dwellGap, maxDwell, projectionFloor, staleHorizon }

/-- The profile of SET PROFILE: its fields in the order of R138, those with a default optional. -/
def putProfile (a : ProfileArgs) : List Byte :=
  putOpt putFlag a.enabled ++ putByte a.trigger ++ putHalf a.gap ++ putHalf a.lead ++ putOpt putHalf a.defaultPace
    ++ putByte a.lines ++ putOpt putHalf a.hold ++ putOpt putHalf a.stale ++ putList putByte a.waves
    ++ putFlag a.showEstimated ++ putFlag a.showProjection ++ putOpt putHalf a.pollHold

/-- Read the profile of SET PROFILE. -/
def readProfile : FieldReader ProfileArgs := do
  let enabled ← readOpt readFlag
  let trigger ← readByte
  let gap ← readHalf
  let lead ← readHalf
  let defaultPace ← readOpt readHalf
  let lines ← readByte
  let hold ← readOpt readHalf
  let stale ← readOpt readHalf
  let waves ← readList readByte
  let showEstimated ← readFlag
  let showProjection ← readFlag
  let pollHold ← readOpt readHalf
  pure { enabled, trigger, gap, lead, defaultPace, lines, hold, stale, waves, showEstimated, showProjection, pollHold }

/-- A COMMAND: its link, its tag, its kind by R190 and its arguments. -/
structure CommandBody where
  link : Side
  tag  : Byte
  kind : Nat
  args : List Byte
  deriving DecidableEq, Repr

/-- The COMMAND that carries a command of a control link, its kinds numbered by R190; absent for what no COMMAND of a
known kind carries. -/
def Instr.commandBody : Instr → Option CommandBody
  | .status l tag => some ⟨l, tag, 1, []⟩
  | .readRunner l tag bib => some ⟨l, tag, 2, putHalf bib⟩
  | .readPort l tag port => some ⟨l, tag, 3, putByte port⟩
  | .readScreen l tag screen => some ⟨l, tag, 4, putByte screen⟩
  | .readParkList l tag start => some ⟨l, tag, 5, putOpt putByte start⟩
  | .readTallies l tag => some ⟨l, tag, 6, []⟩
  | .readWatchLog l tag count => some ⟨l, tag, 7, putByte count⟩
  | .readConditions l tag => some ⟨l, tag, 8, []⟩
  | .ackConditions l tag conds => some ⟨l, tag, 9, putList putByte conds⟩
  | .setMask l tag conds => some ⟨l, tag, 10, putList putByte conds⟩
  | .claim l tag => some ⟨l, tag, 11, []⟩
  | .seize l tag => some ⟨l, tag, 12, []⟩
  | .release l tag => some ⟨l, tag, 13, []⟩
  | .pass l tag => some ⟨l, tag, 14, []⟩
  | .startClock l tag preset => some ⟨l, tag, 15, putOpt putWord preset⟩
  | .stopClock l tag => some ⟨l, tag, 16, []⟩
  | .gun l tag wave time => some ⟨l, tag, 17, putByte wave ++ putOpt putWord time⟩
  | .setPoint l tag point distance policy display =>
    some ⟨l, tag, 18, putByte point ++ putHalf distance ++ putByte policy ++ putFlag display⟩
  | .clearPoint l tag point => some ⟨l, tag, 19, putByte point⟩
  | .setPort l tag port point allowance =>
    some ⟨l, tag, 20, putByte port ++ putChoice putByte point ++ putOpt putHalf allowance⟩
  | .setLimits l tag limits => some ⟨l, tag, 21, putLimits limits⟩
  | .setProfile l tag screen profile => some ⟨l, tag, 22, putByte screen ++ putProfile profile⟩
  | .register l tag bib wave chips name =>
    some ⟨l, tag, 23, putHalf bib ++ putByte wave ++ putList putWord chips ++ putOpt putName name⟩
  | .remove l tag bib => some ⟨l, tag, 24, putHalf bib⟩
  | .setName l tag bib name => some ⟨l, tag, 25, putHalf bib ++ putOpt putName name⟩
  | .amend l tag bib point time =>
    some ⟨l, tag, 26, putHalf bib ++ putByte point ++ putChoice putWord (some time)⟩
  | .amendClear l tag bib point => some ⟨l, tag, 26, putHalf bib ++ putByte point ++ putChoice putWord none⟩
  | .accept l tag bib point => some ⟨l, tag, 27, putHalf bib ++ putByte point⟩
  | .withdraw l tag bib => some ⟨l, tag, 28, putHalf bib⟩
  | .disqualify l tag bib => some ⟨l, tag, 29, putHalf bib⟩
  | .reinstate l tag bib => some ⟨l, tag, 30, putHalf bib⟩
  | .bind l tag chip bib => some ⟨l, tag, 31, putWord chip ++ putHalf bib⟩
  | .discard l tag chip => some ⟨l, tag, 32, putWord chip⟩
  | .setWatch l tag bibs => some ⟨l, tag, 33, putList putHalf bibs⟩
  | .setTally l tag tally cls qualifiers limit stop =>
    some ⟨l, tag, 34, putByte tally ++ putByte cls ++ putList putByte qualifiers ++ putOpt putWord limit ++ putFlag stop⟩
  | .freeze l tag triggers => some ⟨l, tag, 35, putOpt (putList putByte) triggers⟩
  | .thaw l tag => some ⟨l, tag, 36, []⟩
  | .clearTallies l tag => some ⟨l, tag, 37, []⟩
  | .store l tag => some ⟨l, tag, 38, []⟩
  | .raceReset l tag => some ⟨l, tag, 39, []⟩
  | .restart l tag => some ⟨l, tag, 40, []⟩
  | _ => none

/-- Read the arguments of a command kind (R190); a kind that is 0 or above 40 fails. -/
def readArguments (l : Side) (tag : Byte) : Nat → FieldReader Instr
  | 1 => pure (.status l tag)
  | 2 => .readRunner l tag <$> readHalf
  | 3 => .readPort l tag <$> readByte
  | 4 => .readScreen l tag <$> readByte
  | 5 => .readParkList l tag <$> readOpt readByte
  | 6 => pure (.readTallies l tag)
  | 7 => .readWatchLog l tag <$> readByte
  | 8 => pure (.readConditions l tag)
  | 9 => .ackConditions l tag <$> readList readByte
  | 10 => .setMask l tag <$> readList readByte
  | 11 => pure (.claim l tag)
  | 12 => pure (.seize l tag)
  | 13 => pure (.release l tag)
  | 14 => pure (.pass l tag)
  | 15 => .startClock l tag <$> readOpt readWord
  | 16 => pure (.stopClock l tag)
  | 17 => do
    let wave ← readByte
    let time ← readOpt readWord
    pure (.gun l tag wave time)
  | 18 => do
    let point ← readByte
    let distance ← readHalf
    let policy ← readByte
    let display ← readFlag
    pure (.setPoint l tag point distance policy display)
  | 19 => .clearPoint l tag <$> readByte
  | 20 => do
    let port ← readByte
    let point ← readChoice readByte
    let allowance ← readOpt readHalf
    pure (.setPort l tag port point allowance)
  | 21 => .setLimits l tag <$> readLimits
  | 22 => do
    let screen ← readByte
    let profile ← readProfile
    pure (.setProfile l tag screen profile)
  | 23 => do
    let bib ← readHalf
    let wave ← readByte
    let chips ← readList readWord
    let name ← readOpt readName
    pure (.register l tag bib wave chips name)
  | 24 => .remove l tag <$> readHalf
  | 25 => do
    let bib ← readHalf
    let name ← readOpt readName
    pure (.setName l tag bib name)
  | 26 => do
    let bib ← readHalf
    let point ← readByte
    let time ← readChoice readWord
    pure (match time with
      | some t => .amend l tag bib point t
      | none => .amendClear l tag bib point)
  | 27 => do
    let bib ← readHalf
    let point ← readByte
    pure (.accept l tag bib point)
  | 28 => .withdraw l tag <$> readHalf
  | 29 => .disqualify l tag <$> readHalf
  | 30 => .reinstate l tag <$> readHalf
  | 31 => do
    let chip ← readWord
    let bib ← readHalf
    pure (.bind l tag chip bib)
  | 32 => .discard l tag <$> readWord
  | 33 => .setWatch l tag <$> readList readHalf
  | 34 => do
    let tally ← readByte
    let cls ← readByte
    let qualifiers ← readList readByte
    let limit ← readOpt readWord
    let stop ← readFlag
    pure (.setTally l tag tally cls qualifiers limit stop)
  | 35 => .freeze l tag <$> readOpt (readList readByte)
  | 36 => pure (.thaw l tag)
  | 37 => pure (.clearTallies l tag)
  | 38 => pure (.store l tag)
  | 39 => pure (.raceReset l tag)
  | 40 => pure (.restart l tag)
  | _ => failure

/-- The command of a COMMAND body: of its kind when its arguments fit and nothing is left over, else UNKNOWN_KIND with
its tag (R161, R190). A body below two bytes is no COMMAND (R187). -/
def parseCommand (l : Side) : List Byte → Option Instr
  | tag :: kind :: args =>
    match (readArguments l tag kind.toNat).run args with
    | some (i, []) => some i
    | _ => some (.unknownKind l tag)
  | _ => none

/-! ## Messages (R186, R188) -/

/-- A message of a link: its kind byte and its body. -/
structure Message where
  link : LinkId
  kind : Byte
  body : List Byte
  deriving DecidableEq, Repr

/-- The message that carries a command; absent for a deadline, a pin event, a reset or an internal event, and for
UNKNOWN_KIND, which no one message stands for. -/
def Instr.message : Instr → Option Message
  | .matHello p => some ⟨.mat p, 0x01, []⟩
  | .read p seq chip dtime level => some ⟨.mat p, 0x02, putByte seq ++ putWord chip ++ putWord dtime ++ putByte level⟩
  | .syncReport p dtime => some ⟨.mat p, 0x03, putWord dtime⟩
  | .screenHello k => some ⟨.screen k, 0x11, []⟩
  | .frameRequest k last wait => some ⟨.screen k, 0x12, putHalf last ++ putFlag wait⟩
  | i => i.commandBody.map fun c => ⟨.control c.link, 0x21, c.tag :: BitVec.ofNat 8 c.kind :: c.args⟩

/-- Read a whole body: nothing may be left over. -/
def readBody (r : FieldReader Instr) (body : List Byte) : Option Instr :=
  match r.run body with
  | some (i, []) => some i
  | _ => none

/-- The message of a kind with a body on a link; absent when the part does not receive the kind on that link or the
length of the body does not fit the kind (R187). -/
def parseMessage : LinkId → Byte → List Byte → Option Instr
  | .mat p, kind, body =>
    if kind = 0x01 then readBody (pure (.matHello p)) body
    else if kind = 0x02 then
      readBody (do
        let seq ← readByte
        let chip ← readWord
        let dtime ← readWord
        let level ← readByte
        pure (.read p seq chip dtime level)) body
    else if kind = 0x03 then readBody (.syncReport p <$> readWord) body
    else none
  | .screen k, kind, body =>
    if kind = 0x11 then readBody (pure (.screenHello k)) body
    else if kind = 0x12 then
      readBody (do
        let last ← readHalf
        let wait ← readByte
        pure (.frameRequest k last (wait != 0))) body
    else none
  | .control l, kind, body => if kind = 0x21 then parseCommand l body else none

/-! ## Frames (R186, R187) -/

/-- One bit through the check register (R186). -/
def crcBit (crc : Half) (bit : Bool) : Half :=
  let shifted := crc <<< 1
  if crc.msb != bit then shifted ^^^ 0x1021 else shifted

/-- One byte through the check register, most significant bit first (R186). -/
def crcByte (crc : Half) (b : Byte) : Half := (List.range 8).foldl (fun c i => crcBit c (b.getLsbD (7 - i))) crc

/-- The check over some bytes (R186). -/
def crc16 (bs : List Byte) : Half := bs.foldl crcByte 0xFFFF

/-- The start byte of a frame (R186). -/
def startByte : Byte := 0xC3

/-- The frame of a message: start, kind, length, body and check (R186). -/
def frameBytes (kind : Byte) (body : List Byte) : List Byte :=
  let checked := kind :: (putHalf (BitVec.ofNat 16 body.length) ++ body)
  startByte :: (checked ++ putHalf (crc16 checked))

/-- A byte that arrives on a link, with its arrival in elapsed milliseconds (R187) and whether start-up is then in
progress (R185). -/
structure TimedByte where
  at_     : Nat
  byte    : Byte
  startUp : Bool
  deriving DecidableEq, Repr

/-- More than 20 ms lie between two of the bytes that follow one another (R187). -/
def hasGap : List TimedByte → Bool
  | x :: y :: rest => decide (x.at_ + Config.byteGap < y.at_) || hasGap (y :: rest)
  | _ => false

/-- The last byte lies more than 20 ms before `now`. -/
def timedOut (bs : List TimedByte) (now : Nat) : Bool :=
  bs.getLast?.any fun x => decide (x.at_ + Config.byteGap < now)

/-- The length field of a frame whose first bytes are given (R186). -/
def frameLength (bs : List Byte) : Option Nat :=
  match bs with
  | _ :: _ :: hi :: lo :: _ => some (BitVec.toNat (hi ++ lo))
  | _ => none

/-- What a receiver makes of the bytes from a start byte on: a message in so many bytes, a discarded frame, a frame
whose bytes came too slowly, or nothing yet (R187). -/
inductive FrameResult where
  | message (i : Instr) (size : Nat)
  | discarded
  | gap
  | incomplete
  deriving DecidableEq, Repr

/-- A frame on a screen or control link that arrives before start-up ends is discarded as if it failed its check
(R185). That a frame arrives with its last byte is DESIGN CHOICE (log entry 27). -/
def barredByStartUp (link : LinkId) (frame : List TimedByte) : Bool :=
  match link with
  | .mat _ => false
  | .screen _ | .control _ => frame.getLast?.any fun x => x.startUp

/-- Gather one frame from its start byte on, with the bytes that have arrived by `now` (R185, R187). -/
def gatherFrame (link : LinkId) (now : Nat) (bs : List TimedByte) : FrameResult :=
  let short := fun n => if hasGap (bs.take n) then FrameResult.gap
    else if timedOut bs now then FrameResult.gap else FrameResult.incomplete
  match frameLength (bs.map fun x => x.byte) with
  | none => short 4
  | some len =>
    let size := len + 6
    if hasGap (bs.take 4) then .gap
    else if Config.maxBody < len then .discarded
    else if bs.length < size then short size
    else if hasGap (bs.take size) then .gap
    else if barredByStartUp link (bs.take size) then .discarded
    else
      let frame := (bs.take size).map fun x => x.byte
      let body := (frame.drop 4).take len
      match frame with
      | _ :: kind :: _ =>
        if frameBytes kind body = frame then
          match parseMessage link kind body with
          | some i => .message i size
          | none => .discarded
        else .discarded
      | _ => .incomplete

/-- The commands that the bytes of a link come to, oldest first, with the bytes that have arrived by `now`; `n` bounds
the bytes looked at. The search resumes at the byte after a discarded frame's start byte (R187). -/
def receiveUpTo (link : LinkId) (now : Nat) : Nat → List TimedByte → List Instr
  | 0, _ => []
  | _, [] => []
  | n + 1, b :: rest =>
    if b.byte = startByte then
      match gatherFrame link now (b :: rest) with
      | .message i size => i :: receiveUpTo link now n ((b :: rest).drop size)
      | .discarded => .discardedFrame link :: receiveUpTo link now n rest
      | .gap => .byteGapTimeout link :: receiveUpTo link now n rest
      | .incomplete => []
    else receiveUpTo link now n rest

/-- The commands that the bytes of a link come to (R187). A power-on or a station reset does not cut a frame that is
being gathered: its bytes before and after the reset make one frame (DESIGN CHOICE, log entry 37). -/
def receive (link : LinkId) (now : Nat) (bs : List TimedByte) : List Instr := receiveUpTo link now bs.length bs

end Sys2Proof
end

