-- ==== Sys2Proof/Machine/Types.lean ====
section
/-! DEFINITION. The data of the part, block by block, as the state tables of spec/ list it. Race times, distances and
limits are counts (Nat); a field that wraps, or that names a bib or a chip, is the bit vector of its message field. -/

namespace Sys2Proof.Machine

/-! ## Race Clock (chapter 1) -/

/-- Clock state (R1). -/
inductive ClockState where
  | stopped
  | running
  deriving DecidableEq, Repr

/-- Reference status (R5). -/
inductive RefStatus where
  | present
  | lost
  deriving DecidableEq, Repr

/-- The Race Clock block (chapter 1, state table). `supervised` is the supervision of REF, which begins when the
start-up of a power-on ends (R5). -/
structure RaceClock where
  state       : ClockState
  value       : Nat
  limitMark   : Bool
  ref         : RefStatus
  supervised  : Bool
  latestPulse : Option Nat
  guns        : Vector (Option Nat) 16
  locked      : Bool
  deriving DecidableEq, Repr

/-! ## Mat Intake (chapter 2) -/

/-- Link state of a mat, screen or control link (R18, R151, R160). -/
inductive LinkState where
  | down
  | up
  deriving DecidableEq, Repr

/-- A read in an intake list (chapter 2, table of fields). -/
structure IntakeRead where
  chip    : Word32
  dtime   : Word32
  level   : Byte
  arrival : Nat
  deriving DecidableEq, Repr

/-- One mat port's part of Mat Intake (chapter 2, state table). The silence timer is idle (`none`) or running with a
deadline in elapsed milliseconds (R21). -/
structure MatIntake where
  link        : LinkState
  list        : List IntakeRead
  outstanding : Nat
  expected    : Byte
  grant       : Byte
  unreported  : Nat
  timer       : Option Nat
  deriving DecidableEq, Repr

/-! ## Time Alignment (chapter 3) -/

/-- A sync record: the pulse time T and the decoder time D latched at it (chapter 3). -/
structure SyncRecord where
  pulse : Nat
  dtime : Word32
  deriving DecidableEq, Repr

/-- Sync state of a mat port (3.4). -/
inductive SyncState where
  | unsynced
  | synced
  | stale
  deriving DecidableEq, Repr

/-- One mat port's part of Time Alignment (chapter 3, state table); the history is oldest first (R35). -/
structure Alignment where
  history       : List SyncRecord
  rate          : Int
  sync          : SyncState
  staleDeadline : Option Nat
  deriving DecidableEq, Repr

/-! ## Passage Unit (chapter 4) -/

/-- Standing of the held read (chapter 4). -/
inductive Standing where
  | asTaken
  | portReset
  | void
  deriving DecidableEq, Repr

/-- The held read: the fields of the intake list and those recorded at the take (chapter 4, R52). -/
structure HeldRead where
  chip      : Word32
  dtime     : Word32
  level     : Byte
  arrival   : Nat
  port      : Port
  takeTime  : Nat
  point     : Point
  time      : Nat
  estimated : Bool
  standing  : Standing
  deriving DecidableEq, Repr

/-- A passage (chapter 4, table of fields). -/
structure Passage where
  chip           : Word32
  firstTime      : Nat
  firstEstimated : Bool
  peakTime       : Nat
  peakLevel      : Byte
  peakEstimated  : Bool
  firstTaken     : Nat
  lastTaken      : Nat
  deriving DecidableEq, Repr

/-- The Passage Unit (chapter 4, state table); each passage list is oldest first (R55). -/
structure PassageUnit where
  lastServed : Port
  held       : Option HeldRead
  lists      : Vector (List Passage) 12
  deriving DecidableEq, Repr

/-! ## Registry (chapter 5) and crossing records (chapter 6) -/

/-- Timing policy of a point (R68). -/
inductive Policy where
  | first
  | peak
  deriving DecidableEq, Repr

/-- A configured entry of the course table (R68). -/
structure CoursePoint where
  distance : Nat
  policy   : Policy
  display  : Bool
  deriving DecidableEq, Repr

/-- The course table: points 0 to 9, each unconfigured (`none`) or configured (R68). -/
abbrev Course := Vector (Option CoursePoint) 10

/-- A mat port's assignment: a point or none, and the latency allowance (R72). -/
structure PortAssignment where
  point     : Option Point
  allowance : Nat
  deriving DecidableEq, Repr

/-- The six limits (R74). -/
structure Limits where
  minPace         : Nat
  confirmWindow   : Nat
  dwellGap        : Nat
  maxDwell        : Nat
  projectionFloor : Nat
  staleHorizon    : Nat
  deriving DecidableEq, Repr

/-- Status of a runner (R75). -/
inductive RunnerStatus where
  | registered
  | running
  | finished
  | withdrawn
  | disqualified
  deriving DecidableEq, Repr

/-- Source of a crossing: a mat port, or CONTROL (R88). -/
inductive Source where
  | port (p : Port)
  | control
  deriving DecidableEq, Repr

/-- Suspect reason of a crossing (R88). -/
inductive Suspect where
  | early
  | order
  | fast
  deriving DecidableEq, Repr

/-- A crossing record (R88); it is non-suspect when `suspect` is absent. -/
structure Crossing where
  time      : Nat
  source    : Source
  place     : Option Nat
  estimated : Bool
  confirmed : Bool
  amended   : Bool
  suspect   : Option Suspect
  deriving DecidableEq, Repr

/-- A runner's crossings, one entry per point (R75). -/
abbrev Crossings := Vector (Option Crossing) 10

/-- A runner record (R75). -/
structure Runner where
  bib       : Half
  wave      : Wave
  chips     : List Word32
  name      : Option Name
  status    : RunnerStatus
  crossings : Crossings
  deriving DecidableEq, Repr

/-- Registry state (chapter 5). -/
inductive RegistryState where
  | ready
  | resetting
  deriving DecidableEq, Repr

/-- The Registry (chapter 5, state table). The runner table is kept in rising order of bib and the chip map in rising
order of chip code, since neither has an order of its own (R75, R76); `clearing` names the records that a Race Reset in
flight has not yet cleared (R84). -/
structure Registry where
  course    : Course
  ports     : Vector PortAssignment 12
  limits    : Limits
  runners   : List Runner
  chipMap   : List (Word32 × Half)
  counters  : Vector Nat 10
  state     : RegistryState
  requester : Option Side
  clearing  : List Half
  deriving DecidableEq, Repr

/-! ## Park List (chapter 8) -/

/-- A parked crossing (chapter 8, table of fields). -/
structure ParkedCrossing where
  time      : Nat
  source    : Port
  estimated : Bool
  deriving DecidableEq, Repr

/-- A Park List entry (chapter 8, table of fields). -/
structure ParkEntry where
  chip       : Word32
  parkedAt   : Nat
  lastUpdate : Nat
  crossings  : Vector (Option ParkedCrossing) 10
  deriving DecidableEq, Repr

/-! ## Display Scheduler (chapter 9) -/

/-- A screen's profile (9.1). The wave set is listed in rising order. -/
structure Profile where
  enabled        : Bool
  trigger        : Point
  gap            : Nat
  lead           : Nat
  defaultPace    : Nat
  lines          : Nat
  hold           : Nat
  stale          : Nat
  waves          : List Wave
  showEstimated  : Bool
  showProjection : Bool
  pollHold       : Nat
  deriving DecidableEq, Repr

/-- A display item (R123). -/
structure DisplayItem where
  bib        : Half
  name       : Option Name
  point      : Point
  netSeconds : Nat
  pace       : Option Nat
  projected  : Option Nat
  place      : Nat
  priority   : Bool
  estimated  : Bool
  fromGun    : Bool
  due        : Nat
  created    : Nat
  deriving DecidableEq, Repr

/-- An occupied line: its item with shown-at and expiry (chapter 9). -/
structure ShownItem where
  item    : DisplayItem
  shownAt : Nat
  expiry  : Nat
  deriving DecidableEq, Repr

/-- Session mark of a screen link (R151, R152). -/
inductive SessionMark where
  | fresh
  | answered
  deriving DecidableEq, Repr

/-- A held FRAME REQUEST: the last sequence it carried and its hold deadline in elapsed milliseconds (R152, R153). -/
structure HeldRequest where
  last     : Half
  deadline : Nat
  deriving DecidableEq, Repr

/-- One screen (chapter 9, state table). The due queue is in due order, head first (R141); there are as many lines as
the profile's line count; `waiting` says that the head waits (R146). -/
structure Screen where
  profile : Profile
  queue   : List DisplayItem
  lines   : List (Option ShownItem)
  waiting : Bool
  seq     : Half
  link    : LinkState
  session : SessionMark
  held    : Option HeldRequest
  timer   : Option Nat
  deriving DecidableEq, Repr

/-! ## Control Unit (chapter 10) -/

/-- The control token: FREE or held by one link (chapter 10). -/
inductive Token where
  | free
  | held (l : Side)
  deriving DecidableEq, Repr

/-- The eighteen conditions, in the order of the table of R168. -/
inductive Condition where
  | unknownChip
  | parkFull
  | suspect
  | linkDown
  | creditOverrun
  | syncLost
  | driftLimit
  | queueFull
  | watchOverflow
  | tallyLimit
  | claimPending
  | tokenGranted
  | tokenLost
  | storeDone
  | storeInvalid
  | refLost
  | clockLimit
  | restarted
  deriving DecidableEq, Repr

/-- A set of conditions, listed in the order of the table of R168, so that equal sets are equal data. -/
abbrev CondSet := List Condition

/-- A command in progress: its kind and its tag (chapter 10, state table). -/
structure Progress where
  kind : Byte
  tag  : Byte
  deriving DecidableEq, Repr

/-- One control link (chapter 10, state table). -/
structure ControlLink where
  link       : LinkState
  timer      : Option Nat
  inProgress : Option Progress
  pending    : CondSet
  mask       : CondSet
  deriving DecidableEq, Repr

/-- An entry of the watch log (R100). -/
structure WatchEntry where
  bib        : Half
  point      : Point
  time       : Nat
  netSeconds : Option Nat
  suspect    : Option Suspect
  deriving DecidableEq, Repr

/-- Reset cause (R185). -/
inductive ResetCause where
  | powerOn
  | resetLine
  | restartCommand
  deriving DecidableEq, Repr

/-- The Control Unit (chapter 10, state table). -/
structure ControlUnit where
  token      : Token
  claim      : Option Side
  linkA      : ControlLink
  linkB      : ControlLink
  watchList  : List Half
  watchLog   : List WatchEntry
  overflow   : Bool
  resetCause : ResetCause
  deriving DecidableEq, Repr

/-! ## Tally Unit (chapter 11) -/

/-- The class of a tally, NONE or one of the eighteen event classes, in the order of the table of chapter 11. -/
inductive TallyClass where
  | none
  | readAccepted
  | readDropped
  | readLost
  | frameError
  | syncAccepted
  | syncLate
  | passageClosed
  | passageForced
  | crossingNew
  | crossingConfirmed
  | crossingRepeat
  | crossingSuspect
  | chipParked
  | parkDropped
  | itemQueued
  | itemDropped
  | itemStale
  | itemShown
  deriving DecidableEq, Repr

/-- One tally (chapter 11, state table); the qualifier set is listed in rising order. -/
structure Tally where
  cls        : TallyClass
  qualifiers : List Nat
  limit      : Option Word32
  stop       : Bool
  value      : Word32
  deriving DecidableEq, Repr

/-- The Tally Unit (chapter 11, state table). -/
structure TallyUnit where
  tallies  : Vector Tally 8
  frozen   : Bool
  triggers : CondSet
  deriving DecidableEq, Repr

/-! ## Settings Store (chapter 12) -/

/-- The working settings, as an image or a snapshot holds them (chapter 12). -/
structure Settings where
  course   : Course
  ports    : Vector PortAssignment 12
  limits   : Limits
  profiles : Vector Profile 8
  deriving DecidableEq, Repr

/-- Store state (chapter 12). -/
inductive StoreState where
  | idle
  | erasing
  | writing
  deriving DecidableEq, Repr

/-- The Settings Store (chapter 12, state table). The settings of the image are absent once they are erased (R183). -/
structure SettingsStore where
  image    : Option Settings
  valid    : Bool
  state    : StoreState
  snapshot : Option Settings
  deriving DecidableEq, Repr

/-! ## What the part sends -/

/-- Results of a command (R161, numbered by R189). -/
inductive Result where
  | ok
  | pending
  | busy
  | notInCharge
  | notPermitted
  | locked
  | unknown
  | duplicate
  | full
  | range
  | state
  deriving DecidableEq, Repr

/-- A line record of a FRAME (R154). -/
structure LineRecord where
  bib        : Half
  name       : Option Name
  point      : Point
  netSeconds : Nat
  pace       : Option Nat
  projected  : Option Nat
  place      : Nat
  priority   : Bool
  estimated  : Bool
  fromGun    : Bool
  deriving DecidableEq, Repr

/-- The segment of a crossing: its lower point, time and distance (R116). -/
structure Segment where
  lower    : Point
  time     : Nat
  distance : Nat
  deriving DecidableEq, Repr

/-- What READ RUNNER reports of one crossing: the record and its derived values (R124). -/
structure CrossingReport where
  crossing   : Crossing
  gunElapsed : Option Nat
  gunSeconds : Option Nat
  net        : Option Nat
  netSeconds : Option Nat
  fromGun    : Bool
  segment    : Option Segment
  pace       : Option Nat
  projected  : Option Nat
  deriving DecidableEq, Repr

/-- The answer of READ RUNNER (R82): one report, or the absence of a crossing, for each configured point. -/
structure RunnerReport where
  bib    : Half
  wave   : Wave
  gun    : Option Nat
  chips  : List Word32
  name   : Option Name
  status : RunnerStatus
  points : List (Point × Option CrossingReport)
  deriving DecidableEq, Repr

/-- The held read's part of READ PORT (R66). -/
structure HeldReport where
  chip     : Word32
  takeTime : Nat
  point    : Point
  standing : Standing
  deriving DecidableEq, Repr

/-- The answer of READ PORT (R32, R50, R66). -/
structure PortReport where
  link          : LinkState
  outstanding   : Nat
  listLength    : Nat
  heldHere      : Bool
  expected      : Byte
  grant         : Byte
  unreported    : Nat
  sync          : SyncState
  rate          : Int
  records       : Nat
  oldest        : Option SyncRecord
  newest        : Option SyncRecord
  staleDeadline : Option Nat
  allowance     : Nat
  point         : Option Point
  passages      : Nat
  oldestTaken   : Option Nat
  held          : Option HeldReport
  deriving DecidableEq, Repr

/-- A queued item as READ SCREEN reports it (R156). -/
structure QueueReport where
  bib      : Half
  point    : Point
  priority : Bool
  due      : Nat
  created  : Nat
  deriving DecidableEq, Repr

/-- An occupied line as READ SCREEN reports it (R156). -/
structure LineReport where
  record  : LineRecord
  due     : Nat
  created : Nat
  shownAt : Nat
  expiry  : Nat
  deriving DecidableEq, Repr

/-- The answer of READ SCREEN (R156). -/
structure ScreenReport where
  profile     : Profile
  link        : LinkState
  session     : SessionMark
  held        : Option Nat
  seq         : Half
  queueLength : Nat
  items       : List QueueReport
  waiting     : Bool
  lines       : List (Option LineReport)
  deriving DecidableEq, Repr

/-- The answer of STATUS (R174). -/
structure StatusReport where
  clock        : ClockState
  value        : Nat
  ref          : RefStatus
  locked       : Bool
  guns         : Vector (Option Nat) 16
  mats         : Vector (LinkState × SyncState) 12
  lastServed   : Port
  readHeld     : Bool
  registry     : RegistryState
  runners      : Nat
  chips        : Nat
  registered   : Nat
  running      : Nat
  finished     : Nat
  withdrawn    : Nat
  disqualified : Nat
  course       : Course
  finish       : Option Point
  limits       : Limits
  counters     : Vector Nat 10
  parked       : Nat
  screens      : Vector (LinkState × Half × Nat) 8
  store        : StoreState
  frozen       : Bool
  token        : Token
  claim        : Option Side
  linkA        : LinkState
  linkB        : LinkState
  inProgressA  : Bool
  inProgressB  : Bool
  watchList    : Nat
  watchLog     : Nat
  overflow     : Bool
  resetCause   : ResetCause
  deriving DecidableEq, Repr

/-- The data of a RESPONSE (R189): nothing, or what the command's rule names. -/
inductive Answer where
  | nothing
  | status (r : StatusReport)
  | runner (r : RunnerReport)
  | port (r : PortReport)
  | screen (r : ScreenReport)
  | parkList (count : Nat) (entries : List ParkEntry)
  | tallies (r : TallyUnit)
  | watchLog (entries : List WatchEntry) (overflow : Bool)
  | conditions (pending mask : CondSet) (attn : Bool)
  deriving DecidableEq, Repr

/-- What the part drives onto its links: a pulse on all twelve SYNC outputs (R7), and the messages it sends (R189). -/
inductive Sent where
  | pulse (time : Nat)
  | credit (p : Port) (grant : Byte)
  | frame (k : ScreenNo) (seq : Half) (lines : List (Option LineRecord))
  | unchanged (k : ScreenNo) (seq : Half)
  | response (l : Side) (tag : Byte) (result : Result) (data : Answer)
  deriving DecidableEq, Repr

end Sys2Proof.Machine
end

