-- ==== Sys2Proof/Machine/State.lean ====
section
/-! DEFINITION. The state of the part, its reasons to stop, and the state right after power-on. -/

namespace Sys2Proof.Machine

/-- Everything the spec gives the part, block by block, and five fields of the model's own: `startUp` (start-up is in
progress, R51), `restartDue` (a RESTART is answered and its station reset has not come, R185), `elapsed` (milliseconds
counted by the active time source, on which the elapsed-time timers run, R21), `sent` (what the part has driven onto
its links, oldest first) and `pending` (the commands that wait, oldest first). -/
structure State where
  clock      : RaceClock
  intake     : Vector MatIntake 12
  align      : Vector Alignment 12
  passage    : PassageUnit
  registry   : Registry
  park       : List ParkEntry
  screens    : Vector Screen 8
  control    : ControlUnit
  tally      : TallyUnit
  store      : SettingsStore
  startUp    : Bool
  restartDue : Bool
  elapsed    : Nat
  sent       : List Sent
  pending    : List Instr
  deriving DecidableEq, Repr

/-- The reasons for which a command stops the part. There is none: the spec gives every command an outcome in every
state, so the type has no constructor. -/
inductive Fault where
  deriving DecidableEq, Repr

/-- The reasons for which the model gives a command no meaning. -/
inductive Refusal where
  /-- Raised by an arm of `exec` whose command has no meaning yet; safe, since the model stops. No arm raises it. -/
  | notModelled (mnemonic : String)
  deriving DecidableEq, Repr

/-! ## Values after power-on -/

/-- The Race Clock after power-on (R14); the supervision of REF has not begun (R5). -/
def RaceClock.reset : RaceClock :=
  { state := .stopped, value := 0, limitMark := false, ref := .present, supervised := false, latestPulse := none,
    guns := Vector.replicate 16 none, locked := false }

/-- A mat port after power-on and station reset (R33). -/
def MatIntake.reset : MatIntake :=
  { link := .down, list := [], outstanding := 0, expected := 0, grant := 0, unreported := 0, timer := none }

/-- A mat port's alignment after every reset and after START CLOCK (R47, R49). -/
def Alignment.reset : Alignment := { history := [], rate := 0, sync := .unsynced, staleDeadline := none }

/-- The Passage Unit after power-on and station reset (R64). -/
def PassageUnit.reset : PassageUnit := { lastServed := 11, held := none, lists := Vector.replicate 12 [] }

/-- The default limits (R74). -/
def Limits.defaults : Limits :=
  { minPace := 160, confirmWindow := 10000, dwellGap := 1500, maxDwell := 20000, projectionFloor := 5000,
    staleHorizon := 5000 }

/-- The profile of a screen when the image is not valid (R139). -/
def Profile.defaults : Profile :=
  { enabled := false, trigger := 0, gap := 0, lead := 0, defaultPace := 360, lines := 1, hold := 4000, stale := 5000,
    waves := List.finRange 16, showEstimated := false, showProjection := true, pollHold := 2000 }

/-- The working settings when the image is not valid (R182). -/
def Settings.defaults : Settings :=
  { course := Vector.replicate 10 none, ports := Vector.replicate 12 { point := none, allowance := 250 },
    limits := Limits.defaults, profiles := Vector.replicate 8 Profile.defaults }

/-- The Registry after power-on, with its working settings (R85). -/
def Registry.reset (w : Settings) : Registry :=
  { course := w.course, ports := w.ports, limits := w.limits, runners := [], chipMap := [],
    counters := Vector.replicate 10 0, state := .ready, requester := none, clearing := [] }

/-- A screen after power-on, with its profile (R158). -/
def Screen.reset (p : Profile) : Screen :=
  { profile := p, queue := [], lines := List.replicate p.lines none, waiting := false, seq := 0, link := .down,
    session := .fresh, held := none, timer := none }

/-- A control link after power-on and station reset, before start-up ends (R175). -/
def ControlLink.reset : ControlLink := { link := .down, timer := none, inProgress := none, pending := [], mask := [] }

/-- The Control Unit after power-on, before start-up ends (R175). -/
def ControlUnit.reset : ControlUnit :=
  { token := .free, claim := none, linkA := ControlLink.reset, linkB := ControlLink.reset, watchList := [],
    watchLog := [], overflow := false, resetCause := .powerOn }

/-- A tally after power-on and station reset (R181). -/
def Tally.reset : Tally := { cls := .none, qualifiers := [], limit := none, stop := false, value := 0 }

/-- The Tally Unit after power-on and station reset (R181). -/
def TallyUnit.reset : TallyUnit := { tallies := Vector.replicate 8 Tally.reset, frozen := false, triggers := [] }

/-- The part right after a power-on: start-up is in progress and every block has its power-on state. The image is
DESIGN CHOICE (log entry 2): erased, with its validity mark cleared. -/
def State.reset : State :=
  { clock := RaceClock.reset
    intake := Vector.replicate 12 MatIntake.reset
    align := Vector.replicate 12 Alignment.reset
    passage := PassageUnit.reset
    registry := Registry.reset Settings.defaults
    park := []
    screens := Vector.replicate 8 (Screen.reset Profile.defaults)
    control := ControlUnit.reset
    tally := TallyUnit.reset
    store := { image := none, valid := false, state := .idle, snapshot := none }
    startUp := true
    restartDue := false
    elapsed := 0
    sent := []
    pending := [] }

end Sys2Proof.Machine
end

