-- ==== Sys2Proof/Machine/Ops.lean ====
section
/-! DEFINITION. The operations that every block shares: race-time arithmetic, the update of one block of the state, and
what the part drives onto its links. -/

namespace Sys2Proof.Machine

/-! ## Arithmetic -/

/-- A computed race time saturates at 4,294,967,295 (R4). -/
def satTime (n : Nat) : Nat := min n Config.maxRaceTime

/-- The difference of two decoder times as a signed 32-bit value (00_scope.md, Conventions). -/
def signedDiff (a b : Word32) : Int := (a - b).toInt

/-- `n / d` rounded half away from zero, for positive `d` (R40, R44). -/
def roundHalfAway (n d : Int) : Int :=
  if 0 ≤ n then (2 * n + d) / (2 * d) else -((2 * (-n) + d) / (2 * d))

/-- Now, as every block reads it (R1). -/
def State.now (s : State) : Nat := s.clock.value

/-- The clock is RUNNING. -/
def State.clockRuns (s : State) : Bool := s.clock.state == .running

/-- The Registry is RESETTING. -/
def State.resetting (s : State) : Bool := s.registry.state == .resetting

/-! ## Updates of one block -/

/-- Replace the Race Clock. -/
def State.withClock (s : State) (c : RaceClock) : State := { s with clock := c }

/-- Replace port `p`'s part of Mat Intake. -/
def State.withIntake (s : State) (p : Port) (m : MatIntake) : State := { s with intake := s.intake.set p m }

/-- Replace port `p`'s alignment. -/
def State.withAlign (s : State) (p : Port) (a : Alignment) : State := { s with align := s.align.set p a }

/-- Replace the Passage Unit. -/
def State.withPassage (s : State) (u : PassageUnit) : State := { s with passage := u }

/-- Replace port `p`'s passage list. -/
def State.withPassages (s : State) (p : Port) (l : List Passage) : State :=
  s.withPassage { s.passage with lists := s.passage.lists.set p l }

/-- Replace the held read. -/
def State.withHeld (s : State) (h : Option HeldRead) : State := s.withPassage { s.passage with held := h }

/-- Replace the Registry. -/
def State.withRegistry (s : State) (r : Registry) : State := { s with registry := r }

/-- Replace the Park List. -/
def State.withPark (s : State) (l : List ParkEntry) : State := { s with park := l }

/-- Replace screen `k`. -/
def State.withScreen (s : State) (k : ScreenNo) (x : Screen) : State := { s with screens := s.screens.set k x }

/-- Replace the Control Unit. -/
def State.withControl (s : State) (c : ControlUnit) : State := { s with control := c }

/-- Replace the Tally Unit. -/
def State.withTally (s : State) (t : TallyUnit) : State := { s with tally := t }

/-- Replace the Settings Store. -/
def State.withStore (s : State) (x : SettingsStore) : State := { s with store := x }

/-- Drive `m` onto the links: it joins the end of what the part has sent (R189; R7 for a pulse). -/
def State.transmit (s : State) (m : Sent) : State := { s with sent := s.sent ++ [m] }

/-! ## Control links -/

/-- Control link `l` of the Control Unit. -/
def ControlUnit.linkOf (c : ControlUnit) : Side → ControlLink
  | .a => c.linkA
  | .b => c.linkB

/-- Replace control link `l`. -/
def ControlUnit.setLink (c : ControlUnit) (l : Side) (x : ControlLink) : ControlUnit :=
  match l with
  | .a => { c with linkA := x }
  | .b => { c with linkB := x }

/-- Control link `l` of the part. -/
def State.controlLink (s : State) (l : Side) : ControlLink := s.control.linkOf l

/-- Replace control link `l` of the part. -/
def State.withLink (s : State) (l : Side) (x : ControlLink) : State := s.withControl (s.control.setLink l x)

/-! ## The working settings (chapter 12) -/

/-- The working settings as the Registry and the Display Scheduler hold them. -/
def State.settings (s : State) : Settings :=
  { course := s.registry.course, ports := s.registry.ports, limits := s.registry.limits,
    profiles := Vector.ofFn fun k : ScreenNo => s.screens[k].profile }

end Sys2Proof.Machine
end

