-- ==== Sys2Proof/Machine/Flags.lean ====
section
/-! DEFINITION. The two kinds of mark that every block sets: conditions, with the ATTN lines they drive (10.3), and
tally events (chapter 11). -/

namespace Sys2Proof.Machine

/-! ## Condition sets -/

/-- The eighteen conditions in the order of the table of R168. -/
def Condition.all : List Condition :=
  [.unknownChip, .parkFull, .suspect, .linkDown, .creditOverrun, .syncLost, .driftLimit, .queueFull, .watchOverflow,
   .tallyLimit, .claimPending, .tokenGranted, .tokenLost, .storeDone, .storeInvalid, .refLost, .clockLimit, .restarted]

/-- The set whose members are those of the list `l`. -/
def CondSet.ofList (l : List Condition) : CondSet := Condition.all.filter (fun c => l.contains c)

/-- The set `x` with `c` added; a member stays there once (R168). -/
def CondSet.add (x : CondSet) (c : Condition) : CondSet := CondSet.ofList (c :: x)

/-- The set `x` without the members of `y`. -/
def CondSet.minus (x y : CondSet) : CondSet := x.filter (fun c => !y.contains c)

/-! ## Raising a condition -/

/-- A condition raised while it is in the freeze trigger set freezes the Tally Unit (R179). -/
def State.offerTrigger (s : State) (c : Condition) : State :=
  if s.tally.triggers.contains c then s.withTally { s.tally with frozen := true } else s

/-- Add `c` to the pending set of link `l` (R168). -/
def State.addPending (s : State) (l : Side) (c : Condition) : State :=
  s.withLink l { s.controlLink l with pending := CondSet.add (s.controlLink l).pending c }

/-- Raise `c` to link `l` alone (R168, R179). -/
def State.raiseTo (s : State) (l : Side) (c : Condition) : State := (s.addPending l c).offerTrigger c

/-- Raise `c` to both links (R168, R179). -/
def State.raise (s : State) (c : Condition) : State := ((s.addPending .a c).addPending .b c).offerTrigger c

/-- Raise `c` to both links when `b` holds. -/
def State.raiseIf (s : State) (b : Bool) (c : Condition) : State := if b then s.raise c else s

/-- The level of a link's attention line: high while a pending condition is not masked (R169). -/
def ControlLink.attn (x : ControlLink) : Bool := !(CondSet.minus x.pending x.mask).isEmpty

/-- The level of ATTN-A or ATTN-B (R169). -/
def State.attn (s : State) (l : Side) : Bool := (s.controlLink l).attn

/-! ## Counting a tally event -/

/-- The tally counts an event of class `c` with qualifier `q` (R177). -/
def Tally.takes (t : Tally) (c : TallyClass) (q : Nat) : Bool :=
  t.cls != .none && t.cls == c && (t.qualifiers.isEmpty || t.qualifiers.contains q)

/-- The tally after one event of class `c` with qualifier `q`; the value wraps (R177). -/
def Tally.bump (t : Tally) (c : TallyClass) (q : Nat) : Tally :=
  if t.takes c q then { t with value := t.value + 1 } else t

/-- The event of class `c` with qualifier `q` brings the tally to its limit (R178). -/
def Tally.reaches (t : Tally) (c : TallyClass) (q : Nat) : Bool :=
  t.takes c q && t.limit == some (t.value + 1)

/-- Count one event of class `c` with qualifier `q`: every tally that takes it rises unless the unit is frozen; then
TALLY_LIMIT is raised if a tally reached its limit, and the unit freezes if such a tally has its stop flag set (R177,
R178). -/
def State.count (s : State) (c : TallyClass) (q : Nat) : State :=
  if s.tally.frozen then s
  else
    let before := s.tally.tallies.toList
    let counted := s.withTally { s.tally with tallies := Vector.ofFn fun i : Fin 8 => s.tally.tallies[i].bump c q }
    let limited := counted.raiseIf (before.any fun t => t.reaches c q) .tallyLimit
    if before.any fun t => t.reaches c q && t.stop then limited.withTally { limited.tally with frozen := true }
    else limited

/-- Count `n` events of one class one after another; a freeze stops the rest (R177). -/
def State.countTimes (s : State) (c : TallyClass) (q : Nat) : Nat → State
  | 0 => s
  | n + 1 => (s.count c q).countTimes c q n

/-- Count one event of each class of the list in turn, all with qualifier `q` (R177). -/
def State.countAll (s : State) (cs : List TallyClass) (q : Nat) : State := cs.foldl (fun t c => t.count c q) s

end Sys2Proof.Machine
end

