-- ==== Sys2Proof/Machine/Alignment.lean ====
section
/-! DEFINITION. Time Alignment (chapter 3): the sync history, the rate correction, the sync states and the conversion of
a read's decoder time. -/

namespace Sys2Proof.Machine

/-- The newest record of the history (R35). -/
def Alignment.newest (a : Alignment) : Option SyncRecord := a.history.getLast?

/-- The oldest record of the history (R35). -/
def Alignment.oldest (a : Alignment) : Option SyncRecord := a.history.head?

/-- The stale deadline of a record: its pulse time plus the stale horizon, saturated (R42). -/
def staleDeadlineOf (horizon : Nat) (r : SyncRecord) : Nat := satTime (r.pulse + horizon)

/-- A record joins the end of a history, the oldest leaving one that holds 64 (R35). -/
def appendRecord (h : List SyncRecord) (r : SyncRecord) : List SyncRecord :=
  (if h.length < Config.historySize then h else h.tail) ++ [r]

/-- The rate measured between two records, before the clamp; `none` when the span gives no new rate (R40). -/
def measuredRate (oldest newest : SyncRecord) : Option Int :=
  let dT : Int := (newest.pulse : Int) - oldest.pulse
  let dD : Int := signedDiff newest.dtime oldest.dtime
  if (Config.rateSpan : Int) ≤ dT ∧ 0 < dD then some (roundHalfAway ((dT - dD) * 1000000) dD) else none

/-- The clamp of the rate correction (R41). -/
def clampRate (v : Int) : Int := max (-Config.rateLimit) (min Config.rateLimit v)

/-- The rate measured over a whole history (R40). -/
def historyRate (h : List SyncRecord) : Option Int := do
  let old ← h.head?
  let new ← h.getLast?
  measuredRate old new

/-- The alignment after record `r` was appended (R39, R40, R41, R42). -/
def Alignment.append (a : Alignment) (horizon : Nat) (r : SyncRecord) : Alignment :=
  let h := appendRecord a.history r
  { history := h, rate := ((historyRate h).map clampRate).getD a.rate, sync := .synced,
    staleDeadline := some (staleDeadlineOf horizon r) }

/-- The alignment after a clock restart of the decoder: `r` is its only record (R38). -/
def Alignment.restarted (horizon : Nat) (r : SyncRecord) : Alignment :=
  { history := [r], rate := 0, sync := .synced, staleDeadline := some (staleDeadlineOf horizon r) }

/-- The clamp applied when record `r` was appended, so DRIFT_LIMIT is raised (R41). -/
def Alignment.drifts (a : Alignment) (r : SyncRecord) : Bool :=
  (historyRate (appendRecord a.history r)).any fun v => v != clampRate v

/-- The pulse a report taken now belongs to; `none` when the report is late (R36). -/
def State.reportPulse (s : State) : Option Nat :=
  if s.clockRuns then s.clock.latestPulse.filter fun t => s.now - t < Config.lateWindow else none

/-- Time Alignment takes a SYNC REPORT of port `p`: late, duplicate, clock restart or appended (R36 to R39). -/
def State.takeReport (s : State) (p : Port) (d : Word32) : State :=
  let a := s.align[p]
  let horizon := s.registry.limits.staleHorizon
  match s.reportPulse with
  | none => s.count .syncLate p
  | some t =>
    let r : SyncRecord := { pulse := t, dtime := d }
    let appended := ((s.withAlign p (a.append horizon r)).count .syncAccepted p).raiseIf (a.drifts r) .driftLimit
    match a.newest with
    | none => appended
    | some n =>
      if n.pulse = t then s.count .syncLate p
      else if signedDiff d n.dtime ≤ 0 then (s.withAlign p (Alignment.restarted horizon r)).count .syncAccepted p
      else appended

/-- Bring a computed race time into its range (R44). -/
def boundTime (v : Int) : Nat := satTime v.toNat

/-- The race time of a decoder time against the newest record and the rate (R44). -/
def convertTime (newest : SyncRecord) (rate : Int) (d : Word32) : Nat :=
  let delta := signedDiff d newest.dtime
  boundTime ((newest.pulse : Int) + delta + roundHalfAway (delta * rate) 1000000)

/-- Convert a read of port `p` at its take: its race time and its estimated mark (R44, R45). -/
def State.convert (s : State) (p : Port) (x : IntakeRead) : Nat × Bool :=
  let a := s.align[p]
  let estimate := (x.arrival - s.registry.ports[p].allowance, true)
  match a.sync, a.newest with
  | .synced, some n => (convertTime n a.rate x.dtime, false)
  | _, _ => estimate

/-- Port `p` becomes STALE: SYNC_LOST is raised, the history and the rate are kept (R42). -/
def State.goStale (s : State) (p : Port) : State :=
  (s.withAlign p { s.align[p] with sync := .stale, staleDeadline := none }).raise .syncLost

/-- Recompute port `p`'s stale deadline from the stale horizon now in force (R43). A deadline at or before now makes the
port STALE there and then, also while the clock is STOPPED, where R42 lets no deadline be reached (DESIGN CHOICE, log
entry 31). -/
def State.moveStale (s : State) (p : Port) : State :=
  let a := s.align[p]
  match a.sync, a.newest with
  | .synced, some n =>
    let d := staleDeadlineOf s.registry.limits.staleHorizon n
    if d ≤ s.now then s.goStale p else s.withAlign p { a with staleDeadline := some d }
  | _, _ => s

/-- STALE_DEADLINE: the race clock has reached a SYNCED port's stale deadline (R42). -/
def execStaleDeadline (p : Port) (s : State) : Host.Outcome State Fault Refusal :=
  let a := s.align[p]
  .next <|
    if s.clockRuns && a.sync == .synced && a.staleDeadline.any (fun d => decide (d ≤ s.now)) then s.goStale p else s

end Sys2Proof.Machine
end

