-- ==== Sys2Proof/Machine/Operands.lean ====
section
/-! DEFINITION. The operand forms: how an argument of a command is read, and which values are out of its range. An
argument out of its range gives `none`, which the command answers with RANGE. -/

namespace Sys2Proof.Machine

/-- A number below `n`, from a one-byte field. -/
def indexOf (n : Nat) (b : Byte) : Option (Fin n) := if h : b.toNat < n then some ⟨b.toNat, h⟩ else none

/-- A point, 0 to 9. -/
def pointOf (b : Byte) : Option Point := indexOf 10 b

/-- A mat port, 0 to 11. -/
def portOf (b : Byte) : Option Port := indexOf 12 b

/-- A screen, 0 to 7. -/
def screenOf (b : Byte) : Option ScreenNo := indexOf 8 b

/-- A wave, 0 to 15. -/
def waveOf (b : Byte) : Option Wave := indexOf 16 b

/-- A tally number, 0 to 7. -/
def tallyOf (b : Byte) : Option (Fin 8) := indexOf 8 b

/-- A two-byte value from `lo` to `hi`. -/
def halfIn (lo hi : Nat) (v : Half) : Option Nat := if lo ≤ v.toNat ∧ v.toNat ≤ hi then some v.toNat else none

/-- A one-byte value from `lo` to `hi`. -/
def byteIn (lo hi : Nat) (v : Byte) : Option Nat := if lo ≤ v.toNat ∧ v.toNat ≤ hi then some v.toNat else none

/-- An optional two-byte value from `lo` to `hi`, with the value `d` when it is not given. -/
def optHalfIn (lo hi d : Nat) : Option Half → Option Nat
  | none => some d
  | some v => halfIn lo hi v

/-- A timing policy by its number: FIRST 0, PEAK 1 (R68, R190). -/
def policyOf (b : Byte) : Option Policy :=
  if b = 0 then some .first else if b = 1 then some .peak else none

/-- A point or the word none (R72). -/
def optPointOf : Option Byte → Option (Option Point)
  | none => some none
  | some b => (pointOf b).map some

/-- A condition by its number, 1 to 18 (R190). -/
def conditionOf (b : Byte) : Option Condition := if b = 0 then none else Condition.all[b.toNat - 1]?

/-- A set of conditions by their numbers; one member out of range makes the whole argument so (R169, R170, R179). -/
def condSetOf (bs : List Byte) : Option CondSet :=
  if bs.all (fun b => (conditionOf b).isSome) then some (CondSet.ofList (bs.filterMap conditionOf)) else none

/-- The nineteen values of a tally's class, in the order of the table of chapter 11. -/
def TallyClass.all : List TallyClass :=
  [.none, .readAccepted, .readDropped, .readLost, .frameError, .syncAccepted, .syncLate, .passageClosed, .passageForced,
   .crossingNew, .crossingConfirmed, .crossingRepeat, .crossingSuspect, .chipParked, .parkDropped, .itemQueued,
   .itemDropped, .itemStale, .itemShown]

/-- A tally class by its number, 0 to 18 (R190). -/
def classOf (b : Byte) : Option TallyClass := TallyClass.all[b.toNat]?

/-- How many values the qualifier of a class has: mat ports, points or screens; none for NONE (chapter 11, R176). -/
def TallyClass.qualifierCount : TallyClass → Nat
  | .none => 0
  | .readAccepted | .readDropped | .readLost | .frameError | .syncAccepted | .syncLate | .passageClosed
  | .passageForced => 12
  | .crossingNew | .crossingConfirmed | .crossingRepeat | .crossingSuspect | .chipParked | .parkDropped => 10
  | .itemQueued | .itemDropped | .itemStale | .itemShown => 8

/-- The set of the numbers in `bs`, in rising order, when all are below `n`. -/
def numbersBelow (n : Nat) (bs : List Byte) : Option (List Nat) :=
  if bs.all (fun b => decide (b.toNat < n)) then
    some ((List.range n).filter fun i => bs.any fun b => b.toNat == i)
  else none

/-- A set of waves, in rising order (R138). -/
def wavesOf (bs : List Byte) : Option (List Wave) :=
  if bs.all (fun b => (waveOf b).isSome) then
    some ((List.finRange 16).filter fun w => bs.any fun b => b.toNat == w.val)
  else none

/-- A name of at most 12 characters with codes 0x20 to 0x7E (R75). -/
def nameFits (n : Name) : Bool :=
  decide (n.length ≤ Config.nameLength) && n.all fun c => decide (0x20 ≤ c.toNat) && decide (c.toNat ≤ 0x7E)

/-- An optional name: an absent one fits. -/
def optNameFits : Option Name → Bool
  | none => true
  | some n => nameFits n

/-- The limits after SET LIMITS over the limits `old`: each given takes its value, each not given is kept; `none` when a
given value lies outside its range (R74). -/
def limitsOf (a : LimitsArgs) (old : Limits) : Option Limits := do
  let minPace ← optHalfIn 100 400 old.minPace a.minPace
  let confirmWindow ← optHalfIn 1000 60000 old.confirmWindow a.confirmWindow
  let dwellGap ← optHalfIn 200 5000 old.dwellGap a.dwellGap
  let maxDwell ← optHalfIn 5000 60000 old.maxDwell a.maxDwell
  let projectionFloor ← optHalfIn 1000 40000 old.projectionFloor a.projectionFloor
  let staleHorizon ← optHalfIn 2000 30000 old.staleHorizon a.staleHorizon
  some { minPace, confirmWindow, dwellGap, maxDwell, projectionFloor, staleHorizon }

/-- The profile that SET PROFILE gives, each field left out at its default; `none` when a field lies outside its range
(R138). -/
def profileOf (a : ProfileArgs) : Option Profile := do
  let trigger ← pointOf a.trigger
  let gap ← halfIn 0 2000 a.gap
  let lead ← halfIn 0 10000 a.lead
  let defaultPace ← optHalfIn 150 600 360 a.defaultPace
  let lines ← byteIn 1 4 a.lines
  let hold ← optHalfIn 1000 15000 4000 a.hold
  let stale ← optHalfIn 0 30000 5000 a.stale
  let waves ← wavesOf a.waves
  let pollHold ← optHalfIn 0 10000 2000 a.pollHold
  some { enabled := a.enabled.getD false, trigger, gap, lead, defaultPace, lines, hold, stale, waves,
         showEstimated := a.showEstimated, showProjection := a.showProjection, pollHold }

end Sys2Proof.Machine
end

