-- ==== Sys2Proof/Machine/Control.lean ====
section
/-! DEFINITION. The Control Unit (chapter 10): how a command is taken and answered, the control token, conditions, the
watch list and the watch log. -/

namespace Sys2Proof.Machine

/-! ## Taking a command (10.1) -/

/-- What a command's own handling comes to (R161 step 4): refused with a result, which changes nothing; answered with a
result and its data in a new state; or left in progress in a new state. -/
inductive Verdict where
  | refuse (r : Result)
  | answer (r : Result) (data : Answer) (s : State)
  | stay (s : State)

/-- Taken and answered OK with no data. -/
def Verdict.ok (s : State) : Verdict := .answer .ok .nothing s

/-- The RESPONSE to a command (R189). -/
def State.respond (s : State) (l : Side) (tag : Byte) (r : Result) (data : Answer) : State :=
  s.transmit (.response l tag r data)

/-- A COMMAND brings a DOWN link UP and restarts the silence timer (R160). -/
def State.hearControl (s : State) (l : Side) : State :=
  s.withLink l { s.controlLink l with link := .up, timer := some (s.elapsed + Config.controlSilence) }

/-- Link `l` holds the control token. -/
def State.holds (s : State) (l : Side) : Bool := s.control.token == .held l

/-- Answer what a command's own handling came to. -/
def State.conclude (s : State) (l : Side) (tag : Byte) : Verdict → State
  | .refuse r => s.respond l tag r .nothing
  | .answer r data t => t.respond l tag r data
  | .stay t => t

/-- Judge a command on a link that has heard it: command in progress, then the token, then its own handling (R161). -/
def State.judgeCommand (s : State) (l : Side) (tag : Byte) (needsToken : Bool) (handle : State → Verdict) : State :=
  if (s.controlLink l).inProgress.isSome then s.respond l tag .busy .nothing
  else if needsToken && !s.holds l then s.respond l tag .notInCharge .nothing
  else s.conclude l tag (handle s)

/-- Take a command on link `l` (R160, R161). Before start-up ends its frame is discarded (R185). -/
def takeCommand (l : Side) (tag : Byte) (needsToken : Bool) (handle : State → Verdict) (s : State) :
    Host.Outcome State Fault Refusal :=
  .next <| if s.startUp then s else (s.hearControl l).judgeCommand l tag needsToken handle

/-- A command that is refused with BUSY while the Registry is RESETTING (R84). -/
def State.unlessResetting (s : State) (v : Verdict) : Verdict := if s.resetting then .refuse .busy else v

/-- UNKNOWN_KIND: a kind that is no command of the part, or arguments that do not fit it, is answered RANGE (R161 step
2). -/
def execUnknownKind (l : Side) (tag : Byte) (s : State) : Host.Outcome State Fault Refusal :=
  takeCommand l tag false (fun _ => .refuse .range) s

/-! ## The control token (10.2) -/

/-- Set the token and the pending claim. -/
def State.withToken (s : State) (t : Token) (c : Option Side) : State :=
  s.withControl { s.control with token := t, claim := c }

/-- The token of its holder `l` passes to the pending claimant, who is told, or becomes FREE (R165, R167). -/
def State.giveUpToken (s : State) (l : Side) : State :=
  if s.control.claim = some l.other then (s.withToken (.held l.other) none).raiseTo l.other .tokenGranted
  else s.withToken .free s.control.claim

/-- CLAIM (R163). -/
def claimToken (l : Side) (s : State) : Verdict :=
  if s.control.token = .free then .ok (s.withToken (.held l) s.control.claim)
  else if s.holds l then .ok s
  else .answer .pending .nothing ((s.withToken s.control.token (some l)).raiseTo l.other .claimPending)

/-- SEIZE (R164). -/
def seizeToken (l : Side) (s : State) : Verdict :=
  match l with
  | .b => .refuse .notPermitted
  | .a =>
    match s.control.token with
    | .free => .ok (s.withToken (.held .a) s.control.claim)
    | .held .a => .ok s
    | .held .b =>
      .ok ((s.withToken (.held .a) (if s.control.claim = some .a then none else s.control.claim)).raiseTo .b .tokenLost)

/-- RELEASE (R165). -/
def releaseToken (l : Side) (s : State) : Verdict :=
  if s.holds l then .ok (s.giveUpToken l)
  else if s.control.claim = some l then .ok (s.withToken s.control.token none)
  else .refuse .state

/-- PASS (R166). -/
def passToken (l : Side) (s : State) : Verdict :=
  if s.holds l && (s.controlLink l.other).link == .up then
    .ok ((s.withToken (.held l.other) (if s.control.claim = some l.other then none else s.control.claim)).raiseTo l.other
      .tokenGranted)
  else .refuse .state

/-- CLAIM. -/
def execClaim (l : Side) (tag : Byte) (s : State) : Host.Outcome State Fault Refusal :=
  takeCommand l tag false (claimToken l) s

/-- SEIZE. -/
def execSeize (l : Side) (tag : Byte) (s : State) : Host.Outcome State Fault Refusal :=
  takeCommand l tag false (seizeToken l) s

/-- RELEASE. -/
def execRelease (l : Side) (tag : Byte) (s : State) : Host.Outcome State Fault Refusal :=
  takeCommand l tag false (releaseToken l) s

/-- PASS. -/
def execPass (l : Side) (tag : Byte) (s : State) : Host.Outcome State Fault Refusal :=
  takeCommand l tag false (passToken l) s

/-- The token and the pending claim of a link that went DOWN on silence (R167). -/
def State.dropShare (s : State) (l : Side) : State :=
  if s.holds l then (s.giveUpToken l).raiseTo l .tokenLost
  else if s.control.claim = some l then s.withToken s.control.token none
  else s

/-- CONTROL_SILENCE_DEADLINE: the silence deadline of an UP control link is reached (R160, R167). -/
def execControlSilenceDeadline (l : Side) (s : State) : Host.Outcome State Fault Refusal :=
  let x := s.controlLink l
  .next <|
    if x.link == .up && x.timer.any (fun d => decide (d ≤ s.elapsed)) then
      ((s.withLink l { x with link := .down, timer := none }).raise .linkDown).dropShare l
    else s

/-! ## Conditions (10.3) -/

/-- READ CONDITIONS: the sending link's two sets and its ATTN level (R170). -/
def readConditions (l : Side) (s : State) : Verdict :=
  .answer .ok (.conditions (s.controlLink l).pending (s.controlLink l).mask (s.attn l)) s

/-- ACK CONDITIONS removes the given conditions from the sending link's pending set (R170). -/
def ackConditions (l : Side) (conds : List Byte) (s : State) : Verdict :=
  match condSetOf conds with
  | none => .refuse .range
  | some x => .ok (s.withLink l { s.controlLink l with pending := CondSet.minus (s.controlLink l).pending x })

/-- SET MASK replaces the sending link's mask set (R169). -/
def setMask (l : Side) (conds : List Byte) (s : State) : Verdict :=
  match condSetOf conds with
  | none => .refuse .range
  | some x => .ok (s.withLink l { s.controlLink l with mask := x })

/-- READ CONDITIONS. -/
def execReadConditions (l : Side) (tag : Byte) (s : State) : Host.Outcome State Fault Refusal :=
  takeCommand l tag false (readConditions l) s

/-- ACK CONDITIONS. -/
def execAckConditions (l : Side) (tag : Byte) (conds : List Byte) (s : State) : Host.Outcome State Fault Refusal :=
  takeCommand l tag false (ackConditions l conds) s

/-- SET MASK. -/
def execSetMask (l : Side) (tag : Byte) (conds : List Byte) (s : State) : Host.Outcome State Fault Refusal :=
  takeCommand l tag false (setMask l conds) s

/-! ## The watch list and the watch log (10.4) -/

/-- Every element of the list differs from the ones after it. -/
def allDistinct {α : Type} [BEq α] : List α → Bool
  | [] => true
  | x :: rest => !rest.contains x && allDistinct rest

/-- SET WATCH replaces the watch list (R171). -/
def setWatch (bibs : List Half) (s : State) : Verdict :=
  if Config.watchListSize < bibs.length ∨ bibs.contains 0 then .refuse .range
  else if !allDistinct bibs then .refuse .duplicate
  else .ok (s.withControl { s.control with watchList := bibs })

/-- SET WATCH. -/
def execSetWatch (l : Side) (tag : Byte) (bibs : List Half) (s : State) : Host.Outcome State Fault Refusal :=
  takeCommand l tag true (setWatch bibs) s

/-- READ WATCH LOG removes and returns up to `n` of the oldest entries and clears the overflow flag (R173). -/
def readWatchLog (n : Byte) (s : State) : Verdict :=
  if 1 ≤ n.toNat ∧ n.toNat ≤ 16 then
    .answer .ok (.watchLog (s.control.watchLog.take n.toNat) s.control.overflow)
      (s.withControl { s.control with watchLog := s.control.watchLog.drop n.toNat, overflow := false })
  else .refuse .range

/-- READ WATCH LOG. -/
def execReadWatchLog (l : Side) (tag : Byte) (count : Byte) (s : State) : Host.Outcome State Fault Refusal :=
  takeCommand l tag false (readWatchLog count) s

end Sys2Proof.Machine
end

