-- ==== Sys2Proof/Machine/Credits.lean ====
section
/-! DEFINITION. The credit accounts of a mat port (chapter 2): the CREDIT check, the return of a credit and the opening
of a session. -/

namespace Sys2Proof.Machine

/-- The reads of port `p` that the Passage Unit holds: one or none (R30). -/
def State.heldOf (s : State) (p : Port) : Nat := if s.passage.held.any fun h => h.port == p then 1 else 0

/-- The CREDIT check finds something to send: eight unreported credits, or one with the intake list empty (R29). -/
def MatIntake.creditDue (m : MatIntake) : Bool :=
  m.link == .up && (decide (Config.creditBatch ≤ m.unreported) || (decide (1 ≤ m.unreported) && m.list.isEmpty))

/-- The CREDIT check on port `p` (R29). -/
def State.creditCheck (s : State) (p : Port) : State :=
  let m := s.intake[p]
  if m.creditDue then (s.withIntake p { m with unreported := 0 }).transmit (.credit p m.grant) else s

/-- The account after `n` credits were spent and returned at once: outstanding credits as they were (R25, R27). -/
def MatIntake.refund (m : MatIntake) (n : Nat) : MatIntake :=
  { m with grant := m.grant + BitVec.ofNat 8 n, unreported := m.unreported + n }

/-- The account after one credit came back (R29). -/
def MatIntake.credited (m : MatIntake) : MatIntake :=
  { m with outstanding := m.outstanding + 1, grant := m.grant + 1, unreported := m.unreported + 1 }

/-- The credit of a completed read returns to port `p`: counted when the port is UP, then the CREDIT check is made
(R29). -/
def State.returnCredit (s : State) (p : Port) : State :=
  if s.intake[p].link == .up then (s.withIntake p s.intake[p].credited).creditCheck p else s

/-- Open the accounts of port `p` for a new session and send its first CREDIT (R19). -/
def State.openSession (s : State) (p : Port) : State :=
  let m := s.intake[p]
  let credits := Config.creditBudget - m.list.length - s.heldOf p
  let opened : MatIntake :=
    { link := .up, list := m.list, outstanding := credits, expected := 0, grant := BitVec.ofNat 8 credits,
      unreported := 0, timer := some (s.elapsed + Config.matSilence) }
  (s.withIntake p opened).transmit (.credit p opened.grant)

/-- A message on port `p` restarts its silence timer when the port is UP (R18, R21). -/
def State.hearMat (s : State) (p : Port) : State :=
  if s.intake[p].link == .up then s.withIntake p { s.intake[p] with timer := some (s.elapsed + Config.matSilence) }
  else s

end Sys2Proof.Machine
end

