-- ==== Sys2Proof/Machine/Split.lean ====
section
/-! DEFINITION. Split Arithmetic (chapter 7): functions of the values that a runner record, the wave table, the course
table, the limits and a profile hold at the moment. Every quantity is an exact natural number (R122). -/

namespace Sys2Proof.Machine

/-! ## The course and the usable crossings -/

/-- The finish: the highest configured point (R68). -/
def Course.finish (course : Course) : Option Point :=
  (List.finRange 10).reverse.find? fun p => course[p].isSome

/-- The crossing at `q` when it is non-suspect, which is the runner's usable crossing there (R88). -/
def usable (cs : Crossings) (q : Point) : Option Crossing := cs[q].filter fun c => c.suspect.isNone

/-- The nearest lower point with a non-suspect crossing, and that crossing (R95, R116). -/
def nearestLower (cs : Crossings) (p : Point) : Option (Point × Crossing) :=
  ((List.finRange 10).reverse.filter fun q => q < p).findSome? fun q => (usable cs q).map fun c => (q, c)

/-- The nearest higher point with a non-suspect crossing, and that crossing (R95). -/
def nearestHigher (cs : Crossings) (p : Point) : Option (Point × Crossing) :=
  ((List.finRange 10).filter fun q => p < q).findSome? fun q => (usable cs q).map fun c => (q, c)

/-! ## Elapsed and net time (7.2) -/

/-- Gun elapsed: `t` less the gun time, absent without a gun or before it (R113). -/
def gunElapsed (gun : Option Nat) (t : Nat) : Option Nat := (gun.filter fun g => g ≤ t).map fun g => t - g

/-- The usable start time for a crossing at time `t` (R114). -/
def startTime (cs : Crossings) (t : Nat) : Option Nat :=
  ((usable cs 0).map fun c => c.time).filter fun start => start ≤ t

/-- Net time with its FROM_GUN mark: from the usable start, else from the gun (R114). -/
def netTime (cs : Crossings) (gun : Option Nat) (t : Nat) : Option (Nat × Bool) :=
  match startTime cs t with
  | some start => some (t - start, false)
  | none => (gunElapsed gun t).map fun n => (n, true)

/-- Net seconds, truncated (R115). -/
def netSeconds (cs : Crossings) (gun : Option Nat) (t : Nat) : Option Nat :=
  (netTime cs gun t).map fun n => n.1 / 1000

/-! ## Segment and pace (7.3) -/

/-- The segment up to a crossing at `p` with time `t`; it exists when its time is greater than 0 (R116). -/
def segment (course : Course) (cs : Crossings) (p : Point) (t : Nat) : Option Segment := do
  let (q, c) ← nearestLower cs p
  let upper ← course[p]
  let lower ← course[q]
  if c.time < t then some { lower := q, time := t - c.time, distance := upper.distance - lower.distance } else none

/-- The pace, rounded half up, absent above 3,599 (R117). -/
def pace (g : Segment) : Option Nat :=
  let v := (g.time + g.distance / 2) / g.distance
  if v ≤ Config.slowestPace then some v else none

/-! ## Projected finish (7.4) -/

/-- Projected seconds from a net time at point `p` (R118, R119), without the profile's condition. -/
def projection (course : Course) (floor : Nat) (p : Point) (net : Option Nat) : Option Nat := do
  let n ← net
  let here ← course[p]
  let last ← course.finish
  let goal ← course[last]
  let ms := (n * goal.distance + here.distance / 2) / here.distance
  if floor ≤ here.distance ∧ p ≠ last ∧ ms < Config.projectionCap then some (ms / 1000) else none

/-! ## Due time (7.5) -/

/-- Travel to the screen: at the segment's own pace, or at the default pace without a segment (R120). -/
def travelTime (gap defaultPace : Nat) : Option Segment → Nat
  | some g => gap * g.time / g.distance
  | none => gap * defaultPace

/-- The due time: not before the crossing, saturated at the greatest race time (R121). -/
def dueTime (t travel lead : Nat) : Nat := if travel < lead then t else satTime (t + travel - lead)

/-! ## The figures of READ RUNNER (R124) -/

/-- What READ RUNNER reports of the crossing `c` at point `p` (R124). The nearest lower point is reported with the
segment alone: where the segment is absent, so is the point, also when a lower crossing exists whose time is not before
`c` (DESIGN CHOICE, log entry 33). -/
def crossingReport (course : Course) (floor : Nat) (gun : Option Nat) (cs : Crossings) (p : Point) (c : Crossing) :
    CrossingReport :=
  let elapsed := gunElapsed gun c.time
  let net := netTime cs gun c.time
  let seg := segment course cs p c.time
  { crossing := c
    gunElapsed := elapsed
    gunSeconds := elapsed.map (· / 1000)
    net := net.map (·.1)
    netSeconds := netSeconds cs gun c.time
    fromGun := (net.map (·.2)).getD false
    segment := seg
    pace := seg.bind pace
    projected := projection course floor p (net.map (·.1)) }

end Sys2Proof.Machine
end

