-- ==== Sys2Proof/Machine/Display.lean ====
section
/-! DEFINITION. The Display Scheduler (chapter 9): due queues, lines and the frame sequence. What an event does to one
screen is a function of that screen; the state-level operations then store the screen, raise the frame sequence, send
what that answers and count the tally events. -/

namespace Sys2Proof.Machine

/-! ## Lines and the head (9.3) -/

/-- What considering the head leaves: the queue, the lines, whether the head waits, the tally events in order, and
whether a line changed. -/
structure HeadOutcome where
  queue   : List DisplayItem
  lines   : List (Option ShownItem)
  waiting : Bool
  counts  : List TallyClass
  changed : Bool
  deriving DecidableEq, Repr

/-- An item that takes a line at `now`, with its expiry (R145). -/
def showItem (prof : Profile) (now : Nat) (x : DisplayItem) : ShownItem :=
  { item := x, shownAt := now, expiry := satTime (now + prof.hold) }

/-- The lowest-numbered empty line (R145). -/
def freeLine (lines : List (Option ShownItem)) : Option Nat := lines.findIdx? fun x => x.isNone

/-- Shown-at of a line that holds a non-priority item. -/
def preemptible : Option ShownItem → Option Nat
  | some x => if x.item.priority then none else some x.shownAt
  | none => none

/-- The line whose non-priority item has the earliest shown-at, the lower-numbered among equals (R146). -/
def preemptLine : List (Option ShownItem) → Option Nat
  | [] => none
  | x :: rest =>
    match preemptible x, preemptLine rest with
    | none, none => none
    | some _, none => some 0
    | none, some i => some (i + 1)
    | some t, some i =>
      match (rest[i]?.bind preemptible) with
      | some u => if t ≤ u then some 0 else some (i + 1)
      | none => some 0

/-- The line that a due head which is not stale takes: a free one, or by pre-emption for a PRIORITY head (R145, R146). -/
def lineFor (x : DisplayItem) (lines : List (Option ShownItem)) : Option Nat :=
  match freeLine lines with
  | some i => some i
  | none => if x.priority then preemptLine lines else none

/-- The item's due time plus the stale setting is less than now; the sum is exact (R142, R145). -/
def isStale (prof : Profile) (now : Nat) (x : DisplayItem) : Bool := decide (x.due + prof.stale < now)

/-- Consider the head (R145, R146). -/
def considerHead (prof : Profile) (now : Nat) : List DisplayItem → List (Option ShownItem) → HeadOutcome
  | [], lines => { queue := [], lines, waiting := false, counts := [], changed := false }
  | x :: rest, lines =>
    if now < x.due then { queue := x :: rest, lines, waiting := false, counts := [], changed := false }
    else if isStale prof now x then
      let r := considerHead prof now rest lines
      { r with counts := .itemStale :: r.counts }
    else
      match lineFor x lines with
      | some i =>
        let r := considerHead prof now rest (lines.set i (some (showItem prof now x)))
        { r with counts := .itemShown :: r.counts, changed := true }
      | none => { queue := x :: rest, lines, waiting := true, counts := [], changed := false }

/-! ## One event on one screen -/

/-- What an event leaves of a screen: the screen before its frame sequence rises, the tally events in order, whether the
frame sequence rises, and whether QUEUE_FULL is raised. -/
structure ScreenOutcome where
  screen : Screen
  counts : List TallyClass
  rises  : Bool
  full   : Bool
  deriving DecidableEq, Repr

/-- The screen with what considering its head left. -/
def Screen.withHead (x : Screen) (r : HeadOutcome) : Screen :=
  { x with queue := r.queue, lines := r.lines, waiting := r.waiting }

/-- Insert an item after every item whose due time is equal to or earlier than its own (R142). -/
def insertDue (x : DisplayItem) : List DisplayItem → List DisplayItem
  | [] => [x]
  | y :: rest => if y.due ≤ x.due then y :: insertDue x rest else x :: y :: rest

/-- Remove the last element that satisfies `f`. -/
def removeLast {α : Type} (f : α → Bool) (l : List α) : List α := (l.reverse.eraseP f).reverse

/-- The queue after an item was offered to it, and the tally events: a full queue drops its candidate first (R142,
R143). -/
def enqueue (x : DisplayItem) (queue : List DisplayItem) : List DisplayItem × List TallyClass :=
  if queue.length < Config.dueQueueSize then (insertDue x queue, [.itemQueued])
  else
    let eligible := fun y : DisplayItem => (x.priority && queue.all fun z => z.priority) || !y.priority
    match queue.reverse.find? eligible with
    | some last =>
      if eligible x && decide (last.due ≤ x.due) then (queue, [.itemDropped])
      else (insertDue x (removeLast eligible queue), [.itemDropped, .itemQueued])
    | none => (queue, [.itemDropped])

/-- The item has the bib and the point of `x` (R142). -/
def sameSplit (x y : DisplayItem) : Bool := y.bib == x.bib && y.point == x.point

/-- The line holds an item that satisfies `f`. -/
def lineHolds (f : DisplayItem → Bool) (x : Option ShownItem) : Bool := x.any fun y => f y.item

/-- The lines with every line emptied whose item satisfies `f`. -/
def clearLines (f : DisplayItem → Bool) (lines : List (Option ShownItem)) : List (Option ShownItem) :=
  lines.map fun x => if lineHolds f x then none else x

/-- Offer an item to the screen's due queue (R142). -/
def Screen.offer (x : Screen) (now : Nat) (item : DisplayItem) : ScreenOutcome :=
  if isStale x.profile now item then { screen := x, counts := [.itemStale], rises := false, full := false }
  else
    let kept := x.queue.filter fun y => !sameSplit item y
    let emptied := x.lines.any (lineHolds (sameSplit item))
    let (queue, counts) := enqueue item kept
    let r := considerHead x.profile now queue (clearLines (sameSplit item) x.lines)
    { screen := x.withHead r, counts := counts ++ r.counts, rises := emptied || r.changed,
      full := counts.contains .itemDropped }

/-- Consider the head of the screen when its due deadline is reached (R144, R145). -/
def Screen.considered (x : Screen) (now : Nat) : ScreenOutcome :=
  let r := considerHead x.profile now x.queue x.lines
  { screen := x.withHead r, counts := r.counts, rises := r.changed, full := false }

/-- Line `i` of the screen expires (R148). -/
def Screen.expire (x : Screen) (now : Nat) (i : Nat) : ScreenOutcome :=
  let r := considerHead x.profile now x.queue (x.lines.set i none)
  { screen := x.withHead r, counts := r.counts, rises := true, full := false }

/-- Remove every item of a bib from the screen (R149). -/
def Screen.dropBib (x : Screen) (now : Nat) (bib : Half) : ScreenOutcome :=
  let ofBib := fun y : DisplayItem => y.bib == bib
  let emptied := x.lines.any (lineHolds ofBib)
  let kept := x.queue.filter fun y => !ofBib y
  if !emptied && !x.queue.any ofBib then { screen := x, counts := [], rises := false, full := false }
  else if emptied || x.queue.head?.any ofBib then
    let r := considerHead x.profile now kept (clearLines ofBib x.lines)
    { screen := x.withHead r, counts := r.counts, rises := true, full := false }
  else { screen := { x with queue := kept }, counts := [], rises := true, full := false }

/-- Remove every item from the screen's queue and lines, under the profile `p` (R138, R159). -/
def Screen.emptied (x : Screen) (p : Profile) : Screen :=
  { x with profile := p, queue := [], lines := List.replicate p.lines none, waiting := false }

/-! ## Frames (9.4, 9.5) -/

/-- The line record of an item (R154). -/
def DisplayItem.record (x : DisplayItem) : LineRecord :=
  { bib := x.bib, name := x.name, point := x.point, netSeconds := x.netSeconds, pace := x.pace,
    projected := x.projected, place := x.place, priority := x.priority, estimated := x.estimated,
    fromGun := x.fromGun }

/-- The FRAME of screen `k`: its sequence and a record or a mark for each line (R154). -/
def Screen.frame (x : Screen) (k : ScreenNo) : Sent :=
  .frame k x.seq (x.lines.map fun y => y.map fun z => z.item.record)

/-- The UNCHANGED of screen `k` (R154). -/
def Screen.unchanged (x : Screen) (k : ScreenNo) : Sent := .unchanged k x.seq

/-- The frame sequence of screen `k` rises by 1, and a held request is answered with FRAME (R150). -/
def State.riseSequence (s : State) (k : ScreenNo) : State :=
  let x := { s.screens[k] with seq := s.screens[k].seq + 1 }
  if x.held.isSome then (s.withScreen k { x with held := none }).transmit (x.frame k) else s.withScreen k x

/-- Store what an event left of screen `k`: its tally events are counted, and its frame sequence rises at the end of the
event if a line changed (R150, R177). QUEUE_FULL is left to the caller. -/
def State.settleScreen (s : State) (k : ScreenNo) (o : ScreenOutcome) : State :=
  let t := (s.withScreen k o.screen).countAll o.counts k
  if o.rises then t.riseSequence k else t

/-! ## Building items (9.2) -/

/-- The profile takes a crossing of runner `r` at point `p` (R140). -/
def Profile.takes (prof : Profile) (r : Runner) (p : Point) (estimated : Bool) : Bool :=
  prof.enabled && prof.trigger == p && prof.waves.contains r.wave && (!estimated || prof.showEstimated)

/-- The display item of runner `r` at point `p` for one profile, from the record as it stands (R112, R123, R140). It is
absent only without a net time, which a non-suspect crossing always has (R113). -/
def buildItem (s : State) (prof : Profile) (r : Runner) (p : Point) (cr : Crossing) : Option DisplayItem := do
  let gun := s.clock.guns[r.wave]
  let (net, fromGun) ← netTime r.crossings gun cr.time
  let place ← cr.place
  let seg := segment s.registry.course r.crossings p cr.time
  let travel := travelTime prof.gap prof.defaultPace seg
  some {
    bib := r.bib
    name := r.name
    point := p
    netSeconds := net / 1000
    pace := seg.bind pace
    projected :=
      if prof.showProjection then projection s.registry.course s.registry.limits.projectionFloor p (some net) else none
    place := place
    priority := s.control.watchList.contains r.bib
    estimated := cr.estimated
    fromGun := fromGun
    due := dueTime cr.time travel prof.lead
    created := s.now }

/-- What the hand-off of a crossing leaves of screen `k`, when its profile takes it (R140). -/
def offerTo (s : State) (k : ScreenNo) (r : Runner) (p : Point) (cr : Crossing) : Option ScreenOutcome :=
  let x := s.screens[k]
  if x.profile.takes r p cr.estimated then (buildItem s x.profile r p cr).map (x.offer s.now) else none

/-- Hand runner `r`'s new crossing at `p` to the screens `ks`, one after another: each counts its tally events and sends
its FRAME before the next; the flag says whether a queue was full. -/
def handToScreens (r : Runner) (p : Point) (cr : Crossing) : List ScreenNo → State → State × Bool
  | [], s => (s, false)
  | k :: ks, s =>
    match offerTo s k r p cr with
    | none => handToScreens r p cr ks s
    | some o =>
      let (t, full) := handToScreens r p cr ks (s.settleScreen k o)
      (t, o.full || full)

/-- The Display Scheduler takes the hand-off of a crossing (R101, R140): every screen handles its part, and QUEUE_FULL is
raised after the hand-off's tally events are counted (R177). The order of the screens, 0 to 7, is DESIGN CHOICE (log
entry 32). -/
def State.handOff (s : State) (r : Runner) (p : Point) (cr : Crossing) : State :=
  let (t, full) := handToScreens r p cr (List.finRange 8) s
  t.raiseIf full .queueFull

/-- Every screen removes the items of `bib`, with its tally events and its FRAME before the next (R107, R149). The order
of the screens, 0 to 7, is DESIGN CHOICE (log entry 32). -/
def State.dropBib (s : State) (bib : Half) : State :=
  (List.finRange 8).foldl (fun t k => t.settleScreen k (t.screens[k].dropBib t.now bib)) s

/-! ## Meanings: deadlines on the race clock -/

/-- DUE_DEADLINE: now has reached the due time of a head that does not wait (R144, R145). -/
def execDueDeadline (k : ScreenNo) (s : State) : Host.Outcome State Fault Refusal :=
  let x := s.screens[k]
  .next <|
    if s.clockRuns && !x.waiting && x.queue.head?.any (fun y => decide (y.due ≤ s.now)) then
      s.settleScreen k (x.considered s.now)
    else s

/-- LINE_EXPIRY: now has reached the expiry of an occupied line (R144, R148). -/
def execLineExpiry (k : ScreenNo) (line : Fin 4) (s : State) : Host.Outcome State Fault Refusal :=
  let x := s.screens[k]
  .next <|
    if s.clockRuns && (x.lines[line.val]?.join).any (fun y => decide (y.expiry ≤ s.now)) then
      s.settleScreen k (x.expire s.now line)
    else s

/-! ## Meanings: the screen link (9.5) -/

/-- SCREEN_HELLO (R151). Before start-up ends the frame is discarded (R185). -/
def execScreenHello (k : ScreenNo) (s : State) : Host.Outcome State Fault Refusal :=
  .next <|
    if s.startUp then s
    else
      s.withScreen k { s.screens[k] with
        link := .up, session := .fresh, held := none, timer := some (s.elapsed + Config.screenSilence) }

/-- Answer the held request, if there is one, with UNCHANGED (R152 step 1, R153). -/
def State.answerHeld (s : State) (k : ScreenNo) : State :=
  let x := s.screens[k]
  if x.held.isSome then (s.withScreen k { x with held := none }).transmit (x.unchanged k) else s

/-- Handle a FRAME REQUEST on an UP link, after the one held before it is answered (R152 steps 2 to 5). -/
def State.answerRequest (s : State) (k : ScreenNo) (last : Half) (wait : Bool) : State :=
  let x := s.screens[k]
  if x.session = .fresh then (s.withScreen k { x with session := .answered }).transmit (x.frame k)
  else if last ≠ x.seq then s.transmit (x.frame k)
  else if !wait || x.profile.pollHold == 0 then s.transmit (x.unchanged k)
  else s.withScreen k { x with held := some { last, deadline := s.elapsed + x.profile.pollHold } }

/-- FRAME_REQUEST (R151, R152). On a DOWN link, and before start-up ends (R185), it is dropped. -/
def execFrameRequest (k : ScreenNo) (last : Half) (wait : Bool) (s : State) : Host.Outcome State Fault Refusal :=
  .next <|
    if s.startUp || s.screens[k].link == .down then s
    else
      let t := s.withScreen k { s.screens[k] with timer := some (s.elapsed + Config.screenSilence) }
      (t.answerHeld k).answerRequest k last wait

/-- HOLD_DEADLINE: the hold deadline of a held request is reached (R153). -/
def execHoldDeadline (k : ScreenNo) (s : State) : Host.Outcome State Fault Refusal :=
  .next <| if s.screens[k].held.any (fun h => decide (h.deadline ≤ s.elapsed)) then s.answerHeld k else s

/-- SCREEN_SILENCE_DEADLINE: the silence deadline of an UP link is reached (R151). -/
def execScreenSilenceDeadline (k : ScreenNo) (s : State) : Host.Outcome State Fault Refusal :=
  let x := s.screens[k]
  .next <|
    if x.link == .up && x.timer.any (fun d => decide (d ≤ s.elapsed)) then
      (s.withScreen k { x with link := .down, held := none, timer := none }).raise .linkDown
    else s

end Sys2Proof.Machine
end

