-- ==== Sys2Proof/Machine/Park.lean ====
section
/-! DEFINITION. The Park List (chapter 8): what it does with the crossing of an unknown chip, and how an entry leaves
it. -/

namespace Sys2Proof.Machine

/-- The chip has an entry in the Park List. -/
def State.parked (s : State) (chip : Word32) : Option ParkEntry := s.park.find? fun e => e.chip == chip

/-- The incoming crossing takes the place of the stored one: non-estimated before estimated, and the earlier of two of
equal standing (R127). -/
def parkedBetter (old new : ParkedCrossing) : Bool :=
  (old.estimated && !new.estimated) || (old.estimated == new.estimated && decide (new.time < old.time))

/-- The parked crossing at a point after `new` reached it; a crossing of equal standing brings its time and source
(R127). -/
def mergeParked (new : ParkedCrossing) : Option ParkedCrossing → ParkedCrossing
  | none => new
  | some old => if parkedBetter old new then new else old

/-- The entry after a crossing at `p` was merged into it at `now` (R127). -/
def ParkEntry.merge (e : ParkEntry) (p : Point) (now : Nat) (new : ParkedCrossing) : ParkEntry :=
  { e with lastUpdate := now, crossings := e.crossings.set p (some (mergeParked new e.crossings[p])) }

/-- A new entry with one parked crossing (R128). -/
def ParkEntry.make (chip : Word32) (p : Point) (now : Nat) (new : ParkedCrossing) : ParkEntry :=
  { chip, parkedAt := now, lastUpdate := now, crossings := (Vector.replicate 10 none).set p (some new) }

/-- The oldest last-update of a list of entries. A START CLOCK may have set the clock back since an entry was updated;
that the least race time is still the oldest one is DESIGN CHOICE (log entry 36). -/
def oldestUpdate : List ParkEntry → Option Nat
  | [] => none
  | e :: rest =>
    match oldestUpdate rest with
    | none => some e.lastUpdate
    | some t => some (min e.lastUpdate t)

/-- The list without its entry of the oldest last-update, the one nearest the head among equals (R129). -/
def displaceOldest (l : List ParkEntry) : List ParkEntry :=
  l.eraseP fun e => some e.lastUpdate == oldestUpdate l

/-- The Park List takes a crossing of chip `chip` at point `p` (R127, R128, R129). Its tally events are counted before
its conditions are raised (R177). -/
def State.parkCrossing (s : State) (chip : Word32) (p : Point) (new : ParkedCrossing) : State :=
  if (s.parked chip).isSome then
    s.withPark (s.park.map fun e => if e.chip == chip then e.merge p s.now new else e)
  else if s.park.length < Config.parkListSize then
    ((s.withPark (s.park ++ [ParkEntry.make chip p s.now new])).count .chipParked p).raise .unknownChip
  else
    ((((s.withPark (displaceOldest s.park ++ [ParkEntry.make chip p s.now new])).count .parkDropped p).count
      .chipParked p).raise .parkFull).raise .unknownChip

/-- The Park List without the entry of `chip`. -/
def State.unpark (s : State) (chip : Word32) : State := s.withPark (s.park.filter fun e => e.chip != chip)

/-- The entry without its parked crossing at `p`; absent when it is then left with none (R70). -/
def ParkEntry.dropPoint (p : Point) (e : ParkEntry) : Option ParkEntry :=
  let left := e.crossings.set p none
  if left.toList.any fun x => x.isSome then some { e with crossings := left } else none

end Sys2Proof.Machine
end

