-- ==== Sys2Proof/Machine/Crossing.lean ====
section
/-! DEFINITION. The Crossing Unit (chapter 6): a crossing taken from a passage or replayed from the Park List, the
plausibility checks, places, status, and the watch log. -/

namespace Sys2Proof.Machine

/-- A crossing as it reaches the Crossing Unit (R60, R87). -/
structure Incoming where
  chip      : Word32
  point     : Point
  source    : Port
  time      : Nat
  estimated : Bool
  deriving DecidableEq, Repr

/-! ## The runner table and the chip map -/

/-- The record of a bib. -/
def State.runner (s : State) (bib : Half) : Option Runner := s.registry.runners.find? fun r => r.bib == bib

/-- The bib that the chip map leads to (R76). -/
def State.bibOf (s : State) (chip : Word32) : Option Half := s.registry.chipMap.lookup chip

/-- Write a runner's record in place of the one with its bib. -/
def State.putRunner (s : State) (r : Runner) : State :=
  s.withRegistry { s.registry with runners := s.registry.runners.map fun x => if x.bib == r.bib then r else x }

/-- The runner with a crossing record, or none, at point `p`. -/
def Runner.withCrossing (r : Runner) (p : Point) (c : Option Crossing) : Runner :=
  { r with crossings := r.crossings.set p c }

/-- The runner holds a crossing at some point (R11). -/
def Runner.holdsCrossing (r : Runner) : Bool := r.crossings.toList.any fun x => x.isSome

/-! ## Places (R81, R97) -/

/-- The next value of a place counter, which stays at 65,535 (R81). -/
def nextPlace (n : Nat) : Nat := if n < Config.maxPlace then n + 1 else Config.maxPlace

/-- A crossing at point `p` takes a place if it has none: the counter rises and the place is its new value (R81, R97). -/
def State.takePlace (s : State) (p : Point) (cr : Crossing) : State × Crossing :=
  match cr.place with
  | some _ => (s, cr)
  | none =>
    let n := nextPlace s.registry.counters[p]
    (s.withRegistry { s.registry with counters := s.registry.counters.set p n }, { cr with place := some n })

/-! ## Plausibility checks (6.3) -/

/-- EARLY: the wave has no gun, or the time is before it (R95). -/
def earlyHolds (s : State) (r : Runner) (t : Nat) : Bool :=
  match s.clock.guns[r.wave] with
  | none => true
  | some g => decide (t < g)

/-- ORDER: not later than the nearest lower crossing, or not earlier than the nearest higher one (R95). -/
def orderHolds (r : Runner) (p : Point) (t : Nat) : Bool :=
  (nearestLower r.crossings p).any (fun q => decide (t ≤ q.2.time)) ||
    (nearestHigher r.crossings p).any (fun q => decide (q.2.time ≤ t))

/-- FAST: the segment from the nearest lower crossing takes less than its distance at the min pace (R95). -/
def fastHolds (s : State) (r : Runner) (p : Point) (t : Nat) : Bool :=
  match nearestLower r.crossings p with
  | none => false
  | some (q, cq) =>
    match s.registry.course[p], s.registry.course[q] with
    | some upper, some lower =>
      decide (t < cq.time + (upper.distance - lower.distance) * s.registry.limits.minPace)
    | _, _ => false

/-- The highest reason whose test holds (R96). -/
def checkReason (s : State) (r : Runner) (p : Point) (t : Nat) : Option Suspect :=
  if earlyHolds s r t then some .early
  else if orderHolds r p t then some .order
  else if fastHolds s r p t then some .fast
  else none

/-! ## Status (6.4) -/

/-- A non-suspect crossing at the finish, at any point, or at none (R98). -/
def statusFrom (course : Course) (cs : Crossings) : RunnerStatus :=
  if (course.finish.bind fun p => usable cs p).isSome then .finished
  else if (List.finRange 10).any fun p => (usable cs p).isSome then .running
  else .registered

/-- The derived status: WITHDRAWN and DISQUALIFIED stay (R98). -/
def Runner.derived (course : Course) (r : Runner) : Runner :=
  match r.status with
  | .withdrawn | .disqualified => r
  | _ => { r with status := statusFrom course r.crossings }

/-! ## The watch log (R100, R172) -/

/-- Offer an entry to the watch log (R172). -/
def State.appendWatch (s : State) (e : WatchEntry) : State :=
  if s.control.watchLog.length < Config.watchLogSize then
    s.withControl { s.control with watchLog := s.control.watchLog ++ [e] }
  else
    (s.withControl { s.control with overflow := true }).raiseIf (!s.control.overflow) .watchOverflow

/-- The watch log entry of runner `r`'s crossing at `p`, when the bib is watched (R100). -/
def State.logCrossing (s : State) (r : Runner) (p : Point) (cr : Crossing) : State :=
  if s.control.watchList.contains r.bib then
    s.appendWatch {
      bib := r.bib, point := p, time := cr.time
      netSeconds := netSeconds r.crossings s.clock.guns[r.wave] cr.time, suspect := cr.suspect }
  else s

/-! ## One crossing against the record (6.2) -/

/-- Ranks of quality, from estimated up to AMENDED (R89). -/
def rankOf (amended estimated : Bool) : Nat := if amended then 2 else if estimated then 0 else 1

/-- The outcome of a check run on a crossing: its reason, and a place if it has no reason and no place (R96). -/
def State.judge (s : State) (r : Runner) (p : Point) (cr : Crossing) : State × Crossing :=
  match checkReason s r p cr.time with
  | some why => (s, { cr with suspect := some why })
  | none => s.takePlace p { cr with suspect := none }

/-- The tally event of a check run that found a reason (R96). -/
def suspectCount (cr : Crossing) : List TallyClass := if cr.suspect.isSome then [.crossingSuspect] else []

/-- Write runner `r` with crossing `cr` at `p`, with the status derived (R98, R99). -/
def State.writeCrossing (s : State) (r : Runner) (p : Point) (cr : Option Crossing) : State :=
  s.putRunner ((r.withCrossing p cr).derived s.registry.course)

/-- The tally event of a crossing recorded as new (R90, R96). -/
def newCount (cr : Crossing) : TallyClass := if cr.suspect.isSome then .crossingSuspect else .crossingNew

/-- A recorded new crossing goes to the display: non-suspect, not replayed, of a runner RUNNING or FINISHED, at a point
with display enable (R101, R132). -/
def isShown (course : Course) (r : Runner) (p : Point) (cr : Crossing) (replayed : Bool) : Bool :=
  cr.suspect.isNone && !replayed && (r.status == .running || r.status == .finished) && course[p].any fun x => x.display

/-- Hand a crossing to the Display Scheduler when `b` holds (R101). -/
def State.handOffIf (s : State) (b : Bool) (r : Runner) (p : Point) (cr : Crossing) : State :=
  if b then s.handOff r p cr else s

/-- A crossing as it is recorded first, before its checks (R90). -/
def Incoming.fresh (i : Incoming) : Crossing :=
  { time := i.time, source := .port i.source, place := none, estimated := i.estimated, confirmed := false,
    amended := false, suspect := none }

/-- Record a crossing as new (R90, R100, R101). -/
def State.recordNew (s : State) (r : Runner) (i : Incoming) (replayed : Bool) : State :=
  let (t, cr) := s.judge r i.point i.fresh
  let x := (r.withCrossing i.point (some cr)).derived s.registry.course
  ((((t.count (newCount cr) i.point).raiseIf cr.suspect.isSome .suspect).putRunner x).logCrossing x i.point cr).handOffIf
    (isShown s.registry.course x i.point cr replayed) x i.point cr

/-- A crossing of higher quality replaces the recorded one, which keeps its place (R92). -/
def State.replaceCrossing (s : State) (r : Runner) (i : Incoming) (old : Crossing) : State :=
  let p := i.point
  let base : Crossing :=
    { old with time := i.time, source := .port i.source, estimated := i.estimated, confirmed := false, amended := false }
  let (s1, cr) := s.judge r p base
  ((s1.writeCrossing r p (some cr)).countAll (suspectCount cr) p).raiseIf cr.suspect.isSome .suspect

/-- A crossing from the other port within the window confirms the recorded one; an earlier time is taken and checked
(R93). The tally events are counted before SUSPECT is raised (R177). -/
def State.confirmCrossing (s : State) (r : Runner) (i : Incoming) (old : Crossing) : State :=
  let p := i.point
  if i.time < old.time then
    let (s1, cr) := s.judge r p { old with time := i.time, source := .port i.source, confirmed := true }
    ((s1.writeCrossing r p (some cr)).countAll (suspectCount cr ++ [.crossingConfirmed]) p).raiseIf cr.suspect.isSome
      .suspect
  else (s.writeCrossing r p (some { old with confirmed := true })).count .crossingConfirmed p

/-- The two times differ by no more than the confirm window (R93). -/
def withinWindow (window t u : Nat) : Bool := decide (t ≤ u + window) && decide (u ≤ t + window)

/-- Apply a crossing at a configured point to runner `r`'s record (R90 to R94). -/
def State.applyCrossing (s : State) (r : Runner) (i : Incoming) (replayed : Bool) : State :=
  match r.crossings[i.point] with
  | none => s.recordNew r i replayed
  | some old =>
    let oldRank := rankOf old.amended old.estimated
    let newRank := rankOf false i.estimated
    if newRank < oldRank then s.count .crossingRepeat i.point
    else if oldRank < newRank then s.replaceCrossing r i old
    else if old.source != .port i.source && withinWindow s.registry.limits.confirmWindow i.time old.time then
      s.confirmCrossing r i old
    else s.count .crossingRepeat i.point

/-- The Crossing Unit takes a crossing: to the Park List, set aside, or applied to the record (R87). A chip whose bib has
no record, which the registry excludes (R76), leaves the part as it is. -/
def State.takeCrossing (s : State) (i : Incoming) (replayed : Bool) : State :=
  match s.bibOf i.chip with
  | none => s.parkCrossing i.chip i.point { time := i.time, source := i.source, estimated := i.estimated }
  | some bib =>
    match s.runner bib with
    | none => s
    | some r =>
      if s.registry.course[i.point].isSome then s.applyCrossing r i replayed else s.count .crossingRepeat i.point

/-! ## Replay (R132) -/

/-- The crossings of a park entry as they are handed to the Crossing Unit: in increasing point order (R132). -/
def ParkEntry.incoming (e : ParkEntry) : List Incoming :=
  (List.finRange 10).filterMap fun p =>
    e.crossings[p].map fun x =>
      { chip := e.chip, point := p, source := x.source, time := x.time, estimated := x.estimated }

/-- Replay the parked crossings of an entry (R132). -/
def State.replay (s : State) (e : ParkEntry) : State := e.incoming.foldl (fun t i => t.takeCrossing i true) s

end Sys2Proof.Machine
end

