-- ==== Sys2Proof/Machine/Passage.lean ====
section
/-! DEFINITION. The Passage Unit (chapter 4): taking reads in rotation, passages, and their closing into crossings. -/

namespace Sys2Proof.Machine

/-! ## Closing (4.3) -/

/-- The close deadline of a passage under the limits (R59). -/
def Passage.deadline (x : Passage) (m : Limits) : Nat :=
  min (satTime (x.lastTaken + m.dwellGap)) (satTime (x.firstTaken + m.maxDwell))

/-- The time and the estimated mark that a timing policy selects (R60). -/
def Passage.timed (x : Passage) : Policy → Nat × Bool
  | .first => (x.firstTime, x.firstEstimated)
  | .peak => (x.peakTime, x.peakEstimated)

/-- The crossing a passage of port `p` hands on: under the port's point and that point's policy, as they stand (R60). It
is absent only when the port has no configured point, where no passage can be open (R61, R70). -/
def crossingOf (s : State) (p : Port) (x : Passage) : Option Incoming := do
  let point ← s.registry.ports[p].point
  let entry ← s.registry.course[point]
  let (time, estimated) := x.timed entry.policy
  some { chip := x.chip, point, source := p, time, estimated }

/-- A passage of port `p`, already removed from its list, closes: its crossing is handed on, then PASSAGE_CLOSED is
counted (R59). -/
def State.closeCrossing (s : State) (p : Port) (x : Passage) : State :=
  match crossingOf s p x with
  | some i => (s.takeCrossing i false).count .passageClosed p
  | none => s

/-- The passage list of port `p` without the passage of a chip. -/
def dropChip (chip : Word32) (l : List Passage) : List Passage := l.eraseP fun x => x.chip == chip

/-- Close the passage `x` of port `p`'s list (R59). -/
def State.closePassage (s : State) (p : Port) (x : Passage) : State :=
  (s.withPassages p (dropChip x.chip s.passage.lists[p])).closeCrossing p x

/-- Close passages of port `p`, already removed from its list, oldest first (R61). -/
def State.closeAll (s : State) (p : Port) (l : List Passage) : State := l.foldl (fun t x => t.closeCrossing p x) s

/-! ## Taking reads (4.1) -/

/-- The unit may take: it holds no read, start-up is over and the Registry is READY (R51). -/
def State.mayTake (s : State) : Bool := s.passage.held.isNone && !s.startUp && !s.resetting

/-- The first port with a waiting read, in rotation from the one after the last served (R51). -/
def State.nextPort (s : State) : Option Port :=
  ((List.finRange 12).map fun i => s.passage.lastServed + 1 + i).find? fun p => !s.intake[p].list.isEmpty

/-- The held read that a read of port `p`, assigned to `point`, becomes (R52). -/
def holdRead (s : State) (p : Port) (point : Point) (x : IntakeRead) : HeldRead :=
  let (time, estimated) := s.convert p x
  { chip := x.chip, dtime := x.dtime, level := x.level, arrival := x.arrival, port := p, takeTime := s.now, point,
    time, estimated, standing := .asTaken }

/-- Take the read `x` of port `p`, whose list then holds `rest` (R28, R52). -/
def State.takeRead (s : State) (p : Port) (x : IntakeRead) (rest : List IntakeRead) : State :=
  let removed := (s.withIntake p { s.intake[p] with list := rest }).withPassage { s.passage with lastServed := p }
  let t := removed.creditCheck p
  match t.registry.ports[p].point with
  | none => (t.count .readDropped p).returnCredit p
  | some point => if t.clockRuns then t.withHeld (some (holdRead t p point x)) else (t.count .readDropped p).returnCredit p

/-- Take reads until one is held or no list has one; `n` bounds the takes (R51, R52). -/
def State.takeUpTo : Nat → State → State
  | 0, s => s
  | n + 1, s =>
    if s.mayTake then
      match s.nextPort with
      | none => s
      | some p =>
        match s.intake[p].list with
        | [] => s
        | x :: rest => (s.takeRead p x rest).takeUpTo n
    else s

/-- The reads that wait in the twelve intake lists. -/
def State.waitingReads (s : State) : Nat := (s.intake.toList.map fun m => m.list.length).sum

/-- The takes that an event of R51 leads to. -/
def State.takeReads (s : State) : State := s.takeUpTo s.waitingReads

/-! ## Applying a read (4.2) -/

/-- The passage after a read of its chip was applied to it (R56). -/
def Passage.apply (x : Passage) (h : HeldRead) : Passage :=
  let earlier := decide (h.time < x.firstTime)
  let stronger := decide (x.peakLevel < h.level) || (x.peakLevel == h.level && decide (h.time < x.peakTime))
  { x with
    firstTime := if earlier then h.time else x.firstTime
    firstEstimated := if earlier then h.estimated else x.firstEstimated
    peakTime := if stronger then h.time else x.peakTime
    peakLevel := if stronger then h.level else x.peakLevel
    peakEstimated := if stronger then h.estimated else x.peakEstimated
    lastTaken := h.takeTime }

/-- The passage that a read opens (R57). -/
def Passage.opened (h : HeldRead) : Passage :=
  { chip := h.chip, firstTime := h.time, firstEstimated := h.estimated, peakTime := h.time, peakLevel := h.level,
    peakEstimated := h.estimated, firstTaken := h.takeTime, lastTaken := h.takeTime }

/-- The open passage of a chip on port `p`. -/
def State.passageOf (s : State) (p : Port) (chip : Word32) : Option Passage :=
  s.passage.lists[p].find? fun x => x.chip == chip

/-- A new passage joins the end of port `p`'s list (R57). -/
def State.openPassage (s : State) (h : HeldRead) : State :=
  s.withPassages h.port (s.passage.lists[h.port] ++ [Passage.opened h])

/-- Close the oldest passage of a full list (R58). -/
def State.forceOldest (s : State) (p : Port) : State :=
  match s.passage.lists[p] with
  | [] => s
  | x :: rest => ((s.withPassages p rest).closeCrossing p x).count .passageForced p

/-- Apply a read of standing AS TAKEN to its port's passage list (R56, R57, R58). -/
def State.applyRead (s : State) (h : HeldRead) : State :=
  match s.passageOf h.port h.chip with
  | some _ =>
    s.withPassages h.port (s.passage.lists[h.port].map fun x => if x.chip == h.chip then x.apply h else x)
  | none =>
    if s.passage.lists[h.port].length < Config.passageListSize then s.openPassage h
    else (s.forceOldest h.port).openPassage h

/-- A read of standing PORT RESET is handed on as a passage of its own at its point at take, or discarded (R62). -/
def State.handOnRead (s : State) (h : HeldRead) : State :=
  if s.registry.ports[h.port].point.isSome && s.registry.course[h.point].isSome then
    (s.takeCrossing
      { chip := h.chip, point := h.point, source := h.port, time := h.time, estimated := h.estimated } false).count
      .passageClosed h.port
  else s

/-- Handle the held read according to its standing (R53). -/
def State.finishRead (s : State) (h : HeldRead) : State :=
  match h.standing with
  | .asTaken => s.applyRead h
  | .portReset => s.handOnRead h
  | .void => s

/-- The passage a completion touched closes at once when its deadline is at or before now (R53). While the clock is
STOPPED no deadline is reached, and the passage waits for it to run again (R54, R59). -/
def State.closeTouched (s : State) (h : HeldRead) : State :=
  if h.standing == .asTaken then
    match s.passageOf h.port h.chip with
    | some x => if s.clockRuns && decide (x.deadline s.registry.limits ≤ s.now) then s.closePassage h.port x else s
    | none => s
  else s

/-- READ_COMPLETION: the held read is handled, its credit returns, a touched passage past its deadline closes, and the
free unit takes again (R53). That the close comes before the next take is DEDUCED (log entry 17). -/
def execReadCompletion (s : State) : Host.Outcome State Fault Refusal :=
  .next <|
    match s.passage.held with
    | none => s
    | some h => ((((s.finishRead h).withHeld none).returnCredit h.port).closeTouched h).takeReads

/-- CLOSE_DEADLINE: now has reached the close deadline of the passage of `chip` on port `p` (R59). -/
def execCloseDeadline (p : Port) (chip : Word32) (s : State) : Host.Outcome State Fault Refusal :=
  .next <|
    match s.passageOf p chip with
    | none => s
    | some x => if s.clockRuns && decide (x.deadline s.registry.limits ≤ s.now) then s.closePassage p x else s

/-! ## What settings and the clock do to passages -/

/-- SET LIMITS moved the deadlines: every passage of port `p` whose deadline is at or before now closes (R61). That it
closes also while the clock is STOPPED, where R59 and R63 have passages wait, is DESIGN CHOICE (log entry 35). -/
def State.closeOverdue (s : State) (p : Port) : State :=
  let overdue := fun x : Passage => decide (x.deadline s.registry.limits ≤ s.now)
  let l := s.passage.lists[p]
  (s.withPassages p (l.filter fun x => !overdue x)).closeAll p (l.filter overdue)

/-- SET PORT empties port `p`'s passage list: its passages close under the old point, or are discarded when the new
assignment is none (R61). -/
def State.clearPassages (s : State) (p : Port) (discard : Bool) : State :=
  let l := s.passage.lists[p]
  let t := s.withPassages p []
  if discard then t else t.closeAll p l

/-- SET PORT gives a held read of the port that is AS TAKEN the standing PORT RESET (R62). -/
def State.resetHeld (s : State) (p : Port) : State :=
  match s.passage.held with
  | some h =>
    if h.port == p && h.standing == .asTaken then s.withHeld (some { h with standing := .portReset }) else s
  | none => s

/-- START CLOCK discards every passage and makes the held read VOID (R63). -/
def State.voidPassages (s : State) : State :=
  s.withPassage { s.passage with
    held := s.passage.held.map fun h => { h with standing := .void }, lists := Vector.replicate 12 [] }

end Sys2Proof.Machine
end

