-- ==== Sys2Proof/Machine/Clock.lean ====
section
/-! DEFINITION. The Race Clock (chapter 1): counting, the REF reference, SYNC pulses, guns and the clock commands. -/

namespace Sys2Proof.Machine

/-! ## Values the clock takes -/

/-- The clock has just reached its limit with the limit mark clear: the mark is set and CLOCK_LIMIT is raised (R4). -/
def State.markLimit (s : State) : State :=
  if s.now = Config.maxRaceTime ∧ s.clock.limitMark = false then
    (s.withClock { s.clock with limitMark := true }).raise .clockLimit
  else s

/-- A pulse is driven when the value the clock has just taken is a whole race second (R7, R8). -/
def State.drivePulse (s : State) : State :=
  if s.now % Config.pulsePeriod = 0 then
    (s.withClock { s.clock with latestPulse := some s.now }).transmit (.pulse s.now)
  else s

/-- The RUNNING clock takes the value `v` by counting or as a preset (R4, R7). -/
def State.reachValue (s : State) (v : Nat) : State :=
  (s.withClock { s.clock with value := v }).markLimit.drivePulse

/-- COUNTED_MILLISECOND: one millisecond of the active time source. The elapsed-time timers count it whatever the clock
state (R21); a RUNNING clock below its limit counts it as race time (R1, R4). -/
def execCountedMillisecond (s : State) : Host.Outcome State Fault Refusal :=
  let t := { s with elapsed := s.elapsed + 1 }
  .next <| if t.clockRuns && decide (t.now < Config.maxRaceTime) then t.reachValue (t.now + 1) else t

/-! ## REF (1.2) -/

/-- REF_LOSS: loss of REF, detected while it is supervised and PRESENT (R5, R6). -/
def execRefLoss (s : State) : Host.Outcome State Fault Refusal :=
  .next <|
    if s.clock.supervised && s.clock.ref == .present then (s.withClock { s.clock with ref := .lost }).raise .refLost
    else s

/-- REF_RETURN: return of REF, detected while it is supervised and LOST (R5, R6). -/
def execRefReturn (s : State) : Host.Outcome State Fault Refusal :=
  .next <|
    if s.clock.supervised && s.clock.ref == .lost then s.withClock { s.clock with ref := .present } else s

/-! ## The clock commands (1.1, 1.4) -/

/-- Every mat port's alignment is cleared (R47, R49). -/
def State.clearAlignment (s : State) : State := { s with align := Vector.replicate 12 Alignment.reset }

/-- START CLOCK with preset `v` (R2, R4, R7, R8, R47, R63). -/
def startClock (preset : Option Word32) (s : State) : Verdict :=
  let v := (preset.map (·.toNat)).getD 0
  s.unlessResetting <|
    if s.clockRuns then .refuse .state
    else
      let started := { s.clock with
        state := .running, latestPulse := none, limitMark := s.clock.limitMark && decide (Config.maxRaceTime ≤ v) }
      .ok (((s.withClock started).clearAlignment.voidPassages).reachValue v)

/-- Every gun time is absent (R3). -/
def State.noGun (s : State) : Bool := s.clock.guns.toList.all fun g => g.isNone

/-- STOP CLOCK (R3). -/
def stopClock (s : State) : Verdict :=
  s.unlessResetting <|
    if s.clockRuns && s.noGun then .ok (s.withClock { s.clock with state := .stopped }) else .refuse .state

/-- Wave `w` holds a gun and one of its runners holds a crossing, so it may not be gunned again (R10, R11). -/
def State.gunStands (s : State) (w : Wave) : Bool :=
  s.clock.guns[w].isSome && s.registry.runners.any fun r => r.wave == w && r.holdsCrossing

/-- GUN sets or replaces a wave's gun time and sets the course lock (R10, R12). -/
def fireGun (wave : Byte) (time : Option Word32) (s : State) : Verdict :=
  let t := (time.map (·.toNat)).getD s.now
  s.unlessResetting <|
    match waveOf wave with
    | none => .refuse .range
    | some w =>
      if !s.clockRuns then .refuse .state
      else if s.now < t then .refuse .range
      else if s.gunStands w then .refuse .state
      else .ok (s.withClock { s.clock with guns := s.clock.guns.set w (some t), locked := true })

/-- START CLOCK. -/
def execStartClock (l : Side) (tag : Byte) (preset : Option Word32) (s : State) : Host.Outcome State Fault Refusal :=
  takeCommand l tag true (startClock preset) s

/-- STOP CLOCK. -/
def execStopClock (l : Side) (tag : Byte) (s : State) : Host.Outcome State Fault Refusal :=
  takeCommand l tag true stopClock s

/-- GUN. -/
def execGun (l : Side) (tag : Byte) (wave : Byte) (time : Option Word32) (s : State) :
    Host.Outcome State Fault Refusal :=
  takeCommand l tag true (fireGun wave time) s

end Sys2Proof.Machine
end

