-- ==== Sys2Proof/Machine/Correction.lean ====
section
/-! DEFINITION. The six correction commands (6.6). -/

namespace Sys2Proof.Machine

/-- The checks that every correction command makes on its bib: BUSY, RANGE, UNKNOWN (R102). `inRange` is the check of a
point given. -/
def State.correct (s : State) (bib : Half) (inRange : Bool) (k : Runner → Verdict) : Verdict :=
  s.unlessResetting <|
    if bib = 0 ∨ !inRange then .refuse .range
    else
      match s.runner bib with
      | none => .refuse .unknown
      | some r => k r

/-- The checks of a correction command that carries a bib and a point (R102). -/
def State.correctAt (s : State) (bib : Half) (point : Byte) (k : Runner → Point → Verdict) : Verdict :=
  match pointOf point with
  | none => s.correct bib false fun _ => .refuse .range
  | some p => s.correct bib true fun r => k r p

/-- The crossing record that AMEND sets, over the one that stood there (R103). -/
def amended (t : Nat) (old : Option Crossing) : Crossing :=
  { time := t, source := .control, place := old.bind fun c => c.place, estimated := false, confirmed := false,
    amended := true, suspect := none }

/-- AMEND (R103). -/
def amendCrossing (bib : Half) (point : Byte) (time : Word32) (s : State) : Verdict :=
  s.correctAt bib point fun r p =>
    if s.registry.course[p].isNone then .refuse .state
    else if s.now < time.toNat then .refuse .range
    else
      let (t, cr) := s.takePlace p (amended time.toNat r.crossings[p])
      .ok (t.writeCrossing r p (some cr))

/-- AMEND with CLEAR (R104). -/
def clearCrossing (bib : Half) (point : Byte) (s : State) : Verdict :=
  s.correctAt bib point fun r p =>
    if r.crossings[p].isNone then .refuse .state else .ok (s.writeCrossing r p none)

/-- ACCEPT (R105). -/
def acceptCrossing (bib : Half) (point : Byte) (s : State) : Verdict :=
  s.correctAt bib point fun r p =>
    match r.crossings[p] with
    | none => .refuse .state
    | some old =>
      if old.suspect.isNone then .refuse .state
      else
        let (t, cr) := s.takePlace p { old with suspect := none }
        .ok (t.writeCrossing r p (some cr))

/-- WITHDRAW (R106). -/
def withdrawRunner (bib : Half) (s : State) : Verdict :=
  s.correct bib true fun r =>
    if r.status = .registered ∨ r.status = .running then .ok (s.putRunner { r with status := .withdrawn })
    else .refuse .state

/-- DISQUALIFY (R107, R149). -/
def disqualifyRunner (bib : Half) (s : State) : Verdict :=
  s.correct bib true fun r =>
    if r.status = .disqualified then .refuse .state
    else .ok ((s.putRunner { r with status := .disqualified }).dropBib bib)

/-- REINSTATE derives the status as if it were REGISTERED (R108). -/
def reinstateRunner (bib : Half) (s : State) : Verdict :=
  s.correct bib true fun r =>
    if r.status = .withdrawn ∨ r.status = .disqualified then
      .ok (s.putRunner { r with status := statusFrom s.registry.course r.crossings })
    else .refuse .state

/-- AMEND. -/
def execAmend (l : Side) (tag : Byte) (bib : Half) (point : Byte) (time : Word32) (s : State) :
    Host.Outcome State Fault Refusal :=
  takeCommand l tag true (amendCrossing bib point time) s

/-- AMEND CLEAR. -/
def execAmendClear (l : Side) (tag : Byte) (bib : Half) (point : Byte) (s : State) :
    Host.Outcome State Fault Refusal :=
  takeCommand l tag true (clearCrossing bib point) s

/-- ACCEPT. -/
def execAccept (l : Side) (tag : Byte) (bib : Half) (point : Byte) (s : State) : Host.Outcome State Fault Refusal :=
  takeCommand l tag true (acceptCrossing bib point) s

/-- WITHDRAW. -/
def execWithdraw (l : Side) (tag : Byte) (bib : Half) (s : State) : Host.Outcome State Fault Refusal :=
  takeCommand l tag true (withdrawRunner bib) s

/-- DISQUALIFY. -/
def execDisqualify (l : Side) (tag : Byte) (bib : Half) (s : State) : Host.Outcome State Fault Refusal :=
  takeCommand l tag true (disqualifyRunner bib) s

/-- REINSTATE. -/
def execReinstate (l : Side) (tag : Byte) (bib : Half) (s : State) : Host.Outcome State Fault Refusal :=
  takeCommand l tag true (reinstateRunner bib) s

end Sys2Proof.Machine
end

