-- ==== Sys2Proof/Machine/Intake.lean ====
section
/-! DEFINITION. Mat Intake (chapter 2): the messages of the decoders, the silence of a mat link, and discarded
frames. -/

namespace Sys2Proof.Machine

/-- MAT_HELLO: the port goes UP, or its decoder restarted and its alignment is cleared; either way a new session opens
(R19, R20, R48). -/
def execMatHello (p : Port) (s : State) : Host.Outcome State Fault Refusal :=
  .next <|
    if s.intake[p].link == .up then (s.withAlign p Alignment.reset).openSession p else s.openSession p

/-- The distance of a read's sequence number from the expected one, modulo 256 (R23). -/
def seqDistance (m : MatIntake) (seq : Byte) : Nat := (seq - m.expected).toNat

/-- The account after a read is accepted into the list (R24). -/
def MatIntake.accept (m : MatIntake) (seq : Byte) (x : IntakeRead) : MatIntake :=
  { m with list := m.list ++ [x], outstanding := m.outstanding - 1, expected := seq + 1 }

/-- Port `p` accepts a read after `lost` reads that never came (R24, R25, R27); a read that joins the list may be taken at
once (R51). -/
def State.acceptRead (s : State) (p : Port) (lost : Nat) (seq : Byte) (x : IntakeRead) : State :=
  let m := s.intake[p].refund lost
  let t := s.countTimes .readLost p lost
  if x.chip = 0 then
    ((t.withIntake p { m.refund 1 with expected := seq + 1 }).count .readDropped p).creditCheck p
  else
    let u := (t.withIntake p (m.accept seq x)).count .readAccepted p
    (if lost = 0 then u else u.creditCheck p).takeReads

/-- A READ on an UP port is classified by its distance and the outstanding credits (R23, R26). -/
def State.classifyRead (s : State) (p : Port) (seq : Byte) (x : IntakeRead) : State :=
  let m := s.intake[p]
  let d := seqDistance m seq
  if m.outstanding = 0 then (s.count .readDropped p).raise .creditOverrun
  else if d < m.outstanding then s.acceptRead p d seq x
  else s.count .readDropped p

/-- READ: dropped on a DOWN port, else it restarts the silence timer and is classified (R18, R23, R26). -/
def execRead (p : Port) (seq : Byte) (chip : Word32) (dtime : Word32) (level : Byte) (s : State) :
    Host.Outcome State Fault Refusal :=
  .next <|
    if s.intake[p].link == .up then
      (s.hearMat p).classifyRead p seq { chip, dtime, level, arrival := s.now }
    else s.count .readDropped p

/-- SYNC_REPORT: handed to Time Alignment in either link state; it restarts the timer of an UP port (R18, R31). -/
def execSyncReport (p : Port) (dtime : Word32) (s : State) : Host.Outcome State Fault Refusal :=
  .next <| (s.hearMat p).takeReport p dtime

/-- The port after its silence deadline (R21). -/
def MatIntake.silenced (m : MatIntake) : MatIntake :=
  { m with link := .down, outstanding := 0, unreported := 0, timer := none }

/-- MAT_SILENCE_DEADLINE: the silence deadline of an UP port has passed (R21). -/
def execMatSilenceDeadline (p : Port) (s : State) : Host.Outcome State Fault Refusal :=
  let m := s.intake[p]
  .next <|
    if m.link == .up && m.timer.any (fun d => decide (d ≤ s.elapsed)) then
      (s.withIntake p m.silenced).raise .linkDown
    else s

/-- A frame on a link is discarded: on a mat link it counts FRAME_ERROR, on the others nothing (R22, R151, R160,
R187). -/
def State.discardFrame (s : State) : LinkId → State
  | .mat p => s.count .frameError p
  | .screen _ => s
  | .control _ => s

/-- DISCARDED_FRAME: a frame failed the tests of its link (R187). -/
def execDiscardedFrame (link : LinkId) (s : State) : Host.Outcome State Fault Refusal := .next (s.discardFrame link)

/-- BYTE_GAP_TIMEOUT: more than 20 ms passed between two bytes of a frame, which is discarded (R187). -/
def execByteGapTimeout (link : LinkId) (s : State) : Host.Outcome State Fault Refusal := .next (s.discardFrame link)

end Sys2Proof.Machine
end

