-- ==== Sys2Proof/Machine/Queries.lean ====
section
/-! DEFINITION. SET PROFILE and the queries: READ RUNNER, READ PORT, READ SCREEN, READ PARK LIST and STATUS. -/

namespace Sys2Proof.Machine

/-! ## SET PROFILE (R138) -/

/-- SET PROFILE empties the screen under its new profile and raises its frame sequence (R138). -/
def setProfile (screen : Byte) (a : ProfileArgs) (s : State) : Verdict :=
  match screenOf screen, profileOf a with
  | some k, some prof => .ok ((s.withScreen k (s.screens[k].emptied prof)).riseSequence k)
  | _, _ => .refuse .range

/-! ## Queries -/

/-- What READ RUNNER reports of a record (R82, R124). -/
def runnerReport (s : State) (r : Runner) : RunnerReport :=
  let gun := s.clock.guns[r.wave]
  let course := s.registry.course
  { bib := r.bib, wave := r.wave, gun, chips := r.chips, name := r.name, status := r.status
    points := ((List.finRange 10).filter fun p => course[p].isSome).map fun p =>
      (p, r.crossings[p].map (crossingReport course s.registry.limits.projectionFloor gun r.crossings p)) }

/-- READ RUNNER (R82). -/
def readRunner (bib : Half) (s : State) : Verdict :=
  s.unlessResetting <|
    if bib = 0 then .refuse .range
    else
      match s.runner bib with
      | none => .refuse .unknown
      | some r => .answer .ok (.runner (runnerReport s r)) s

/-- What READ PORT reports of the held read (R66). -/
def HeldRead.report (h : HeldRead) : HeldReport :=
  { chip := h.chip, takeTime := h.takeTime, point := h.point, standing := h.standing }

/-- What READ PORT reports of port `p` (R32, R50, R66). -/
def portReport (s : State) (p : Port) : PortReport :=
  let m := s.intake[p]
  let a := s.align[p]
  let held := s.passage.held.filter fun h => h.port == p
  { link := m.link, outstanding := m.outstanding, listLength := m.list.length, heldHere := held.isSome
    expected := m.expected, grant := m.grant, unreported := m.unreported
    sync := a.sync, rate := a.rate, records := a.history.length, oldest := a.oldest, newest := a.newest
    staleDeadline := a.staleDeadline, allowance := s.registry.ports[p].allowance, point := s.registry.ports[p].point
    passages := s.passage.lists[p].length, oldestTaken := s.passage.lists[p].head?.map fun x => x.firstTaken
    held := held.map HeldRead.report }

/-- READ PORT (R32). -/
def readPort (port : Byte) (s : State) : Verdict :=
  match portOf port with
  | none => .refuse .range
  | some p => .answer .ok (.port (portReport s p)) s

/-- A queued item as READ SCREEN reports it (R156). -/
def DisplayItem.report (x : DisplayItem) : QueueReport :=
  { bib := x.bib, point := x.point, priority := x.priority, due := x.due, created := x.created }

/-- An occupied line as READ SCREEN reports it (R156). -/
def ShownItem.report (x : ShownItem) : LineReport :=
  { record := x.item.record, due := x.item.due, created := x.item.created, shownAt := x.shownAt, expiry := x.expiry }

/-- What READ SCREEN reports of a screen (R156). -/
def Screen.report (x : Screen) : ScreenReport :=
  { profile := x.profile, link := x.link, session := x.session, held := x.held.map fun h => h.deadline, seq := x.seq
    queueLength := x.queue.length, items := (x.queue.take Config.screenPage).map DisplayItem.report
    waiting := x.waiting, lines := x.lines.map fun y => y.map ShownItem.report }

/-- READ SCREEN (R156). -/
def readScreen (screen : Byte) (s : State) : Verdict :=
  match screenOf screen with
  | none => .refuse .range
  | some k => .answer .ok (.screen s.screens[k].report) s

/-- READ PARK LIST: up to 8 entries from the given position (R134). -/
def readParkList (start : Option Byte) (s : State) : Verdict :=
  let n := (start.map (·.toNat)).getD 0
  if n ≤ 63 then .answer .ok (.parkList s.park.length ((s.park.drop n).take Config.parkPage)) s else .refuse .range

/-- The records of one status (R86). -/
def State.countStatus (s : State) (x : RunnerStatus) : Nat := s.registry.runners.countP fun r => r.status == x

/-- What STATUS reports (R174). -/
def statusReport (s : State) : StatusReport :=
  { clock := s.clock.state, value := s.clock.value, ref := s.clock.ref, locked := s.clock.locked, guns := s.clock.guns
    mats := Vector.ofFn fun p : Port => (s.intake[p].link, s.align[p].sync)
    lastServed := s.passage.lastServed, readHeld := s.passage.held.isSome
    registry := s.registry.state, runners := s.registry.runners.length, chips := s.registry.chipMap.length
    registered := s.countStatus .registered, running := s.countStatus .running, finished := s.countStatus .finished
    withdrawn := s.countStatus .withdrawn, disqualified := s.countStatus .disqualified
    course := s.registry.course, finish := s.registry.course.finish, limits := s.registry.limits
    counters := s.registry.counters, parked := s.park.length
    screens := Vector.ofFn fun k : ScreenNo => (s.screens[k].link, s.screens[k].seq, s.screens[k].queue.length)
    store := s.store.state, frozen := s.tally.frozen
    token := s.control.token, claim := s.control.claim, linkA := s.control.linkA.link, linkB := s.control.linkB.link
    inProgressA := s.control.linkA.inProgress.isSome, inProgressB := s.control.linkB.inProgress.isSome
    watchList := s.control.watchList.length, watchLog := s.control.watchLog.length, overflow := s.control.overflow
    resetCause := s.control.resetCause }

/-- STATUS (R174). -/
def readStatus (s : State) : Verdict := .answer .ok (.status (statusReport s)) s

/-! ## Meanings -/

/-- SET PROFILE. -/
def execSetProfile (l : Side) (tag : Byte) (screen : Byte) (profile : ProfileArgs) (s : State) :
    Host.Outcome State Fault Refusal :=
  takeCommand l tag true (setProfile screen profile) s

/-- READ RUNNER. -/
def execReadRunner (l : Side) (tag : Byte) (bib : Half) (s : State) : Host.Outcome State Fault Refusal :=
  takeCommand l tag false (readRunner bib) s

/-- READ PORT. -/
def execReadPort (l : Side) (tag : Byte) (port : Byte) (s : State) : Host.Outcome State Fault Refusal :=
  takeCommand l tag false (readPort port) s

/-- READ SCREEN. -/
def execReadScreen (l : Side) (tag : Byte) (screen : Byte) (s : State) : Host.Outcome State Fault Refusal :=
  takeCommand l tag false (readScreen screen) s

/-- READ PARK LIST. -/
def execReadParkList (l : Side) (tag : Byte) (start : Option Byte) (s : State) : Host.Outcome State Fault Refusal :=
  takeCommand l tag false (readParkList start) s

/-- STATUS. -/
def execStatus (l : Side) (tag : Byte) (s : State) : Host.Outcome State Fault Refusal :=
  takeCommand l tag false readStatus s

end Sys2Proof.Machine
end

