-- ==== Sys2Proof/Machine/Registry.lean ====
section
/-! DEFINITION. The Registry (chapter 5): course, ports, limits, registration, and the Park List's commands (8.3, 8.4). -/

namespace Sys2Proof.Machine

/-! ## The course (5.1) -/

/-- The distance of the point below `p`, when `p` is above 0 and that point is configured. -/
def lowerDistance (course : Course) (p : Point) : Option Nat :=
  if h : 0 < p.val then (course[p.val - 1]'(by omega)).map fun x => x.distance else none

/-- The distance of the point above `p`, when there is one and it is configured. -/
def upperDistance (course : Course) (p : Point) : Option Nat :=
  if h : p.val + 1 < 10 then course[p.val + 1].map fun x => x.distance else none

/-- Every point below `p` is configured (R69 check 4). -/
def lowerConfigured (course : Course) (p : Point) : Bool :=
  (List.finRange 10).all fun q => !decide (q < p) || course[q].isSome

/-- A distance at point `p` keeps the order of R68 (R69 check 4). -/
def distanceFits (course : Course) (p : Point) (distance : Nat) : Bool :=
  (if p.val = 0 then decide (distance = 0)
   else lowerConfigured course p && (lowerDistance course p).any fun d => decide (d < distance)) &&
  (upperDistance course p).all fun d => decide (distance < d)

/-- SET POINT (R69). -/
def setPoint (point : Byte) (distance : Half) (policy : Byte) (display : Bool) (s : State) : Verdict :=
  s.unlessResetting <|
    match pointOf point, halfIn 0 60000 distance, policyOf policy with
    | some p, some d, some pol =>
      if s.clock.locked then .refuse .locked
      else if distanceFits s.registry.course p d then
        .ok (s.withRegistry { s.registry with
          course := s.registry.course.set p (some { distance := d, policy := pol, display }) })
      else .refuse .range
    | _, _, _ => .refuse .range

/-- A mat port is assigned to `p`, or a runner record holds a crossing there (R70 check 4). -/
def State.pointInUse (s : State) (p : Point) : Bool :=
  s.registry.ports.toList.any (fun x => x.point == some p) || s.registry.runners.any fun r => r.crossings[p].isSome

/-- CLEAR POINT (R70). -/
def clearPoint (point : Byte) (s : State) : Verdict :=
  s.unlessResetting <|
    match pointOf point with
    | none => .refuse .range
    | some p =>
      if s.clock.locked then .refuse .locked
      else if s.registry.course.finish ≠ some p ∨ s.pointInUse p then .refuse .state
      else
        .ok ((s.withRegistry { s.registry with
            course := s.registry.course.set p none, counters := s.registry.counters.set p 0 }).withPark
          (s.park.filterMap (ParkEntry.dropPoint p)))

/-! ## Ports and limits (5.2, 5.3) -/

/-- The ports other than `p` that are assigned to point `q` (R72 check 4). -/
def State.otherFeeds (s : State) (p : Port) (q : Point) : Nat :=
  (List.finRange 12).countP fun r => r != p && s.registry.ports[r].point == some q

/-- Give port `p` its new assignment after its passages and held read were dealt with (R61, R62, R73). -/
def State.assignPort (s : State) (p : Port) (point : Option Point) (allowance : Nat) : State :=
  let t := (s.clearPassages p point.isNone).resetHeld p
  t.withRegistry { t.registry with ports := t.registry.ports.set p { point, allowance } }

/-- SET PORT (R72, R73). -/
def setPort (port : Byte) (point : Option Byte) (allowance : Option Half) (s : State) : Verdict :=
  s.unlessResetting <|
    match portOf port, optPointOf point with
    | some p, some q =>
      match optHalfIn 0 2000 s.registry.ports[p].allowance allowance with
      | none => .refuse .range
      | some a =>
        if q.any fun x => s.registry.course[x].isNone then .refuse .state
        else if q.any fun x => decide (Config.portsPerPoint ≤ s.otherFeeds p x) then .refuse .full
        else .ok (s.assignPort p q a)
    | _, _ => .refuse .range

/-- The state after the limits became `m`: changed passage deadlines and stale deadlines move (R43, R61, R74). -/
def State.applyLimits (s : State) (m : Limits) : State :=
  let old := s.registry.limits
  let t := s.withRegistry { s.registry with limits := m }
  let u := if m.dwellGap ≠ old.dwellGap ∨ m.maxDwell ≠ old.maxDwell then
    (List.finRange 12).foldl (fun x p => x.closeOverdue p) t else t
  if m.staleHorizon ≠ old.staleHorizon then (List.finRange 12).foldl (fun x p => x.moveStale p) u else u

/-- SET LIMITS (R74). -/
def setLimits (a : LimitsArgs) (s : State) : Verdict :=
  s.unlessResetting <|
    match limitsOf a s.registry.limits with
    | none => .refuse .range
    | some m => .ok (s.applyLimits m)

/-! ## Runners and chips (5.4) -/

/-- Insert a record in rising order of bib. -/
def insertRunner (r : Runner) : List Runner → List Runner
  | [] => [r]
  | x :: rest => if x.bib < r.bib then x :: insertRunner r rest else r :: x :: rest

/-- Insert a chip in rising order of chip code. -/
def insertChip (chip : Word32) (bib : Half) : List (Word32 × Half) → List (Word32 × Half)
  | [] => [(chip, bib)]
  | x :: rest => if x.1 < chip then x :: insertChip chip bib rest else (chip, bib) :: x :: rest

/-- A chip joins the chip map (R76). -/
def State.mapChip (s : State) (chip : Word32) (bib : Half) : State :=
  s.withRegistry { s.registry with chipMap := insertChip chip bib s.registry.chipMap }

/-- The chip code is in the chip map (R76). -/
def State.chipMapped (s : State) (chip : Word32) : Bool := (s.bibOf chip).isSome

/-- The chip's entry leaves the Park List and its crossings are replayed; a chip that is not parked leaves the part as
it is (R78, R131). -/
def State.unparkAndReplay (s : State) (e : Option ParkEntry) : State :=
  match e with
  | none => s
  | some e => (s.unpark e.chip).replay e

/-- The arguments of REGISTER are in range (R77 check 2). -/
def registerInRange (bib : Half) (chips : List Word32) (name : Option Name) : Bool :=
  bib != 0 && decide (chips.length ≤ Config.chipsPerRunner) && !chips.contains 0 && optNameFits name

/-- A runner record as REGISTER creates it (R78). -/
def Runner.make (bib : Half) (wave : Wave) (chips : List Word32) (name : Option Name) : Runner :=
  { bib, wave, chips, name, status := .registered, crossings := Vector.replicate 10 none }

/-- REGISTER (R77, R78). -/
def registerRunner (bib : Half) (wave : Byte) (chips : List Word32) (name : Option Name) (s : State) : Verdict :=
  s.unlessResetting <|
    match waveOf wave with
    | none => .refuse .range
    | some w =>
      if !registerInRange bib chips name then .refuse .range
      else if !allDistinct chips then .refuse .duplicate
      else if (s.runner bib).isSome then .refuse .duplicate
      else if Config.runnerTableSize ≤ s.registry.runners.length then .refuse .full
      else if chips.any s.chipMapped then .refuse .duplicate
      else
        let added := s.withRegistry { s.registry with
          runners := insertRunner (Runner.make bib w chips name) s.registry.runners }
        let mapped := chips.foldl (fun t chip => t.mapChip chip bib) added
        .ok (chips.foldl (fun t chip => t.unparkAndReplay (t.parked chip)) mapped)

/-- REMOVE (R79). -/
def removeRunner (bib : Half) (s : State) : Verdict :=
  s.unlessResetting <|
    if bib = 0 then .refuse .range
    else
      match s.runner bib with
      | none => .refuse .unknown
      | some r =>
        if r.status ≠ .registered ∨ r.holdsCrossing then .refuse .state
        else
          .ok (s.withRegistry { s.registry with
            runners := s.registry.runners.filter fun x => x.bib != bib
            chipMap := s.registry.chipMap.filter fun x => !r.chips.contains x.1 })

/-- SET NAME (R80). -/
def setName (bib : Half) (name : Option Name) (s : State) : Verdict :=
  s.unlessResetting <|
    if bib = 0 ∨ !optNameFits name then .refuse .range
    else
      match s.runner bib with
      | none => .refuse .unknown
      | some r => .ok (s.putRunner { r with name })

/-! ## The Park List's commands (8.3, 8.4) -/

/-- The chip joins the runner's chip set and the chip map (R131 step 2). -/
def State.joinChip (s : State) (r : Runner) (chip : Word32) : State :=
  (s.putRunner { r with chips := r.chips ++ [chip] }).mapChip chip r.bib

/-- BIND (R130, R131). -/
def bindChip (chip : Word32) (bib : Half) (s : State) : Verdict :=
  s.unlessResetting <|
    if chip = 0 ∨ bib = 0 then .refuse .range
    else
      match s.runner bib with
      | none => .refuse .unknown
      | some r =>
        if Config.chipsPerRunner ≤ r.chips.length then .refuse .full
        else if s.chipMapped chip then .refuse .duplicate
        else .ok ((s.joinChip r chip).unparkAndReplay (s.parked chip))

/-- DISCARD (R133). -/
def discardChip (chip : Word32) (s : State) : Verdict :=
  s.unlessResetting <|
    if chip = 0 then .refuse .range
    else if (s.parked chip).isNone then .refuse .unknown
    else .ok (s.unpark chip)

/-! ## Meanings -/

/-- SET POINT. -/
def execSetPoint (l : Side) (tag : Byte) (point : Byte) (distance : Half) (policy : Byte) (display : Bool) (s : State) :
    Host.Outcome State Fault Refusal :=
  takeCommand l tag true (setPoint point distance policy display) s

/-- CLEAR POINT. -/
def execClearPoint (l : Side) (tag : Byte) (point : Byte) (s : State) : Host.Outcome State Fault Refusal :=
  takeCommand l tag true (clearPoint point) s

/-- SET PORT. -/
def execSetPort (l : Side) (tag : Byte) (port : Byte) (point : Option Byte) (allowance : Option Half) (s : State) :
    Host.Outcome State Fault Refusal :=
  takeCommand l tag true (setPort port point allowance) s

/-- SET LIMITS. -/
def execSetLimits (l : Side) (tag : Byte) (limits : LimitsArgs) (s : State) : Host.Outcome State Fault Refusal :=
  takeCommand l tag true (setLimits limits) s

/-- REGISTER. -/
def execRegister (l : Side) (tag : Byte) (bib : Half) (wave : Byte) (chips : List Word32) (name : Option Name)
    (s : State) : Host.Outcome State Fault Refusal :=
  takeCommand l tag true (registerRunner bib wave chips name) s

/-- REMOVE. -/
def execRemove (l : Side) (tag : Byte) (bib : Half) (s : State) : Host.Outcome State Fault Refusal :=
  takeCommand l tag true (removeRunner bib) s

/-- SET NAME. -/
def execSetName (l : Side) (tag : Byte) (bib : Half) (name : Option Name) (s : State) :
    Host.Outcome State Fault Refusal :=
  takeCommand l tag true (setName bib name) s

/-- BIND. -/
def execBind (l : Side) (tag : Byte) (chip : Word32) (bib : Half) (s : State) : Host.Outcome State Fault Refusal :=
  takeCommand l tag true (bindChip chip bib) s

/-- DISCARD. -/
def execDiscard (l : Side) (tag : Byte) (chip : Word32) (s : State) : Host.Outcome State Fault Refusal :=
  takeCommand l tag true (discardChip chip) s

end Sys2Proof.Machine
end

