-- ==== Sys2Proof/Machine/Store.lean ====
section
/-! DEFINITION. The Settings Store, the Race Reset and the two resets that take the part through start-up (5.6, chapter
12). -/

namespace Sys2Proof.Machine

/-! ## STORE (12.2) -/

/-- STORE (R183). -/
def storeSettings (s : State) : Verdict :=
  if s.store.state = .idle then
    .ok (s.withStore { s.store with snapshot := some s.settings, state := .erasing, valid := false })
  else .refuse .busy

/-- STORE. -/
def execStore (l : Side) (tag : Byte) (s : State) : Host.Outcome State Fault Refusal :=
  takeCommand l tag true storeSettings s

/-- ERASE_COMPLETION (R183). -/
def execEraseCompletion (s : State) : Host.Outcome State Fault Refusal :=
  .next <| if s.store.state = .erasing then s.withStore { s.store with image := none, state := .writing } else s

/-- WRITE_COMPLETION (R183). -/
def execWriteCompletion (s : State) : Host.Outcome State Fault Refusal :=
  .next <|
    if s.store.state = .writing then
      (s.withStore { image := s.store.snapshot, valid := true, state := .idle, snapshot := none }).raise .storeDone
    else s

/-! ## Race Reset (5.6) -/

/-- The Race Clock at the beginning of a Race Reset (R16). -/
def RaceClock.raceReset (x : RaceClock) : RaceClock :=
  { x with state := .stopped, value := 0, limitMark := false, latestPulse := none, guns := Vector.replicate 16 none,
           locked := false }

/-- A mat port at the beginning of a Race Reset, with `held` of its reads dropped by the Passage Unit (R34). -/
def MatIntake.raceReset (m : MatIntake) (held : Nat) : MatIntake :=
  if m.link == .up then
    { m with list := [], outstanding := Config.creditBudget,
             grant := m.grant + BitVec.ofNat 8 (m.list.length + held), unreported := 0 }
  else { m with list := [] }

/-- Mat Intake's part of the beginning of a Race Reset on port `p`; an UP port sends one CREDIT (R34). -/
def State.resetIntake (s : State) (p : Port) : State :=
  let m := s.intake[p].raceReset (s.heldOf p)
  let t := s.withIntake p m
  if m.link == .up then t.transmit (.credit p m.grant) else t

/-- The Passage Unit at the beginning of a Race Reset (R65). -/
def PassageUnit.raceReset (u : PassageUnit) : PassageUnit :=
  { u with held := none, lists := Vector.replicate 12 [] }

/-- A screen at the beginning of a Race Reset (R159). -/
def Screen.raceReset (x : Screen) : Screen :=
  { (x.emptied x.profile) with held := none, seq := x.seq + 1 }

/-- Every block but Mat Intake and the Registry applies its part of the beginning of a Race Reset (R16, R49, R65, R136,
R159, R175). -/
def State.resetBlocks (s : State) : State :=
  { s.clearAlignment with
    clock := s.clock.raceReset
    passage := s.passage.raceReset
    park := []
    screens := Vector.ofFn fun k : ScreenNo => s.screens[k].raceReset
    control := { s.control with watchLog := [], overflow := false } }

/-- RACE RESET is taken: every block applies its part, and the Registry begins the clearing of the runner table; the
command stays in progress on its link (R83). -/
def beginRaceReset (l : Side) (tag : Byte) (s : State) : Verdict :=
  s.unlessResetting <|
    let t := ((List.finRange 12).foldl (fun x p => x.resetIntake p) s).resetBlocks
    let u := t.withRegistry { t.registry with
      state := .resetting, requester := some l, clearing := t.registry.runners.map fun r => r.bib }
    .stay (u.withLink l { u.controlLink l with inProgress := some { kind := 39, tag } })

/-- RACE RESET. -/
def execRaceReset (l : Side) (tag : Byte) (s : State) : Host.Outcome State Fault Refusal :=
  takeCommand l tag true (beginRaceReset l tag) s

/-- A runner record after its results were cleared (R84). -/
def Runner.cleared (r : Runner) : Runner := { r with crossings := Vector.replicate 10 none, status := .registered }

/-- The records whose bib is in `bibs` are cleared (R84). -/
def Registry.clear (x : Registry) (bibs : List Half) : Registry :=
  { x with runners := x.runners.map fun r => if bibs.contains r.bib then r.cleared else r
           clearing := x.clearing.filter fun b => !bibs.contains b }

/-- The place counters become 0 (R84). -/
def Registry.zeroCounters (x : Registry) : Registry := { x with counters := Vector.replicate 10 0 }

/-- RUNNER_RECORD_CLEARING: the record of `bib`, not yet cleared, is cleared; with the last record the place counters
become 0 (R84). -/
def execRunnerRecordClearing (bib : Half) (s : State) : Host.Outcome State Fault Refusal :=
  .next <|
    if s.resetting && s.registry.clearing.contains bib then
      let x := s.registry.clear [bib]
      s.withRegistry (if x.clearing.isEmpty then x.zeroCounters else x)
    else s

/-- Answer the RACE RESET in progress on the requesting link, if there is one (R84). -/
def State.answerReset (s : State) : State :=
  match s.registry.requester with
  | none => s
  | some l =>
    match (s.controlLink l).inProgress with
    | none => s
    | some c => (s.withLink l { s.controlLink l with inProgress := none }).respond l c.tag .ok .nothing

/-- The Registry when a Race Reset completes; an empty runner table leaves the place counters to be cleared here
(R84). -/
def Registry.completed (x : Registry) : Registry := { x.zeroCounters with state := .ready, requester := none }

/-- RACE_RESET_COMPLETION: every record is cleared; the RACE RESET is answered and the Passage Unit resumes (R84,
R51). -/
def execRaceResetCompletion (s : State) : Host.Outcome State Fault Refusal :=
  .next <|
    if s.resetting && s.registry.clearing.isEmpty then
      let t := s.answerReset
      (t.withRegistry t.registry.completed).takeReads
    else s

/-! ## RESTART, station reset and power-on (12.4) -/

/-- RESTART: the station reset is due (R185). -/
def restartPart (s : State) : Verdict := .ok { s with restartDue := true }

/-- RESTART. -/
def execRestart (l : Side) (tag : Byte) (s : State) : Host.Outcome State Fault Refusal :=
  takeCommand l tag true restartPart s

/-- The Control Unit after a station reset (R175). -/
def ControlUnit.stationReset (c : ControlUnit) (cause : ResetCause) : ControlUnit :=
  { ControlUnit.reset with watchList := c.watchList, resetCause := cause }

/-- The store after a station reset, which cuts a STORE in flight (R184). -/
def SettingsStore.stationReset (x : SettingsStore) : SettingsStore := { x with state := .idle, snapshot := none }

/-- Every block's part of a station reset; start-up begins (R15, R33, R49, R64, R85, R110, R136, R158, R175, R181, R184,
R185). -/
def State.stationReset (s : State) (cause : ResetCause) : State :=
  { s.clearAlignment with
    intake := Vector.replicate 12 MatIntake.reset
    passage := PassageUnit.reset
    registry := { s.registry with requester := none }
    park := []
    screens := Vector.ofFn fun k : ScreenNo => Screen.reset s.screens[k].profile
    control := s.control.stationReset cause
    tally := TallyUnit.reset
    store := s.store.stationReset
    startUp := true
    restartDue := false }

/-- STATION_RESET: from the RESET line, or after a RESTART was answered (R185). -/
def execStationReset (cause : StationCause) (s : State) : Host.Outcome State Fault Refusal :=
  .next <|
    match cause with
    | .resetLine => s.stationReset .resetLine
    | .restart => if s.restartDue then s.stationReset .restartCommand else s

/-- The working settings that a power-on loads from the image (R182). -/
def SettingsStore.loaded (x : SettingsStore) : Settings :=
  if x.valid then x.image.getD Settings.defaults else Settings.defaults

/-- POWER_ON: every block takes its power-on state over the working settings of the image, and start-up begins (R14, R33,
R49, R64, R85, R110, R136, R158, R175, R181, R182, R185). -/
def execPowerOn (s : State) : Host.Outcome State Fault Refusal :=
  .next { State.reset with
    registry := Registry.reset s.store.loaded
    screens := Vector.ofFn fun k : ScreenNo => Screen.reset s.store.loaded.profiles[k]
    store := s.store.stationReset
    elapsed := s.elapsed
    sent := s.sent
    pending := s.pending }

/-- Start-up completes a Race Reset in flight: every record not yet cleared, then the place counters (R85, R185). -/
def Registry.finishReset (x : Registry) : Registry :=
  if x.state = .resetting then (x.clear x.clearing).completed else { x with requester := none }

/-- START_UP_END: the Race Reset in flight is completed, RESTARTED joins both pending sets, with STORE_INVALID at a
power-on whose image is not valid, supervision of REF begins, and the Passage Unit may take reads (R5, R51, R175, R182,
R185). Which start-up it ends is the recorded reset cause: a RESET line taken during the start-up of a power-on makes it
one of a station reset, which raises no STORE_INVALID (DEDUCED, log entry 34). -/
def execStartUpEnd (s : State) : Host.Outcome State Fault Refusal :=
  .next <|
    if s.startUp then
      let t := (s.withRegistry s.registry.finishReset).raise .restarted
      let u := t.raiseIf (t.control.resetCause == .powerOn && !t.store.valid) .storeInvalid
      (({ u with startUp := false }).withClock { u.clock with supervised := true }).takeReads
    else s

end Sys2Proof.Machine
end

