-- ==== Sys2Proof/Machine/Tally.lean ====
section
/-! DEFINITION. The commands of the Tally Unit (chapter 11). -/

namespace Sys2Proof.Machine

/-- The limit of SET TALLY is absent or at least 1 (R176). -/
def limitFits : Option Word32 → Bool
  | none => true
  | some v => v != 0

/-- SET TALLY (R176). -/
def setTally (tally : Byte) (cls : Byte) (qualifiers : List Byte) (limit : Option Word32) (stop : Bool) (s : State) :
    Verdict :=
  match tallyOf tally, classOf cls with
  | some i, some c =>
    match numbersBelow c.qualifierCount qualifiers with
    | some q =>
      if limitFits limit then
        .ok (s.withTally { s.tally with
          tallies := s.tally.tallies.set i { cls := c, qualifiers := q, limit, stop, value := 0 } })
      else .refuse .range
    | none => .refuse .range
  | _, _ => .refuse .range

/-- FREEZE without a set freezes the unit; with one it replaces the freeze trigger set (R179). -/
def freezeTallies (triggers : Option (List Byte)) (s : State) : Verdict :=
  match triggers with
  | none => .ok (s.withTally { s.tally with frozen := true })
  | some bs =>
    match condSetOf bs with
    | none => .refuse .range
    | some x => .ok (s.withTally { s.tally with triggers := x })

/-- THAW (R179). -/
def thawTallies (s : State) : Verdict := .ok (s.withTally { s.tally with frozen := false })

/-- CLEAR TALLIES (R179). -/
def clearTallies (s : State) : Verdict :=
  .ok (s.withTally { s.tally with tallies := Vector.ofFn fun i : Fin 8 => { s.tally.tallies[i] with value := 0 } })

/-- READ TALLIES (R180). -/
def readTallies (s : State) : Verdict := .answer .ok (.tallies s.tally) s

/-- SET TALLY. -/
def execSetTally (l : Side) (tag : Byte) (tally : Byte) (cls : Byte) (qualifiers : List Byte) (limit : Option Word32)
    (stop : Bool) (s : State) : Host.Outcome State Fault Refusal :=
  takeCommand l tag true (setTally tally cls qualifiers limit stop) s

/-- FREEZE. -/
def execFreeze (l : Side) (tag : Byte) (triggers : Option (List Byte)) (s : State) : Host.Outcome State Fault Refusal :=
  takeCommand l tag true (freezeTallies triggers) s

/-- THAW. -/
def execThaw (l : Side) (tag : Byte) (s : State) : Host.Outcome State Fault Refusal :=
  takeCommand l tag true thawTallies s

/-- CLEAR TALLIES. -/
def execClearTallies (l : Side) (tag : Byte) (s : State) : Host.Outcome State Fault Refusal :=
  takeCommand l tag true clearTallies s

/-- READ TALLIES. -/
def execReadTallies (l : Side) (tag : Byte) (s : State) : Host.Outcome State Fault Refusal :=
  takeCommand l tag false readTallies s

end Sys2Proof.Machine
end

