-- ==== Sys2Proof/Machine/Dispatch.lean ====
section
/-! DEFINITION. One arm per command: each is one call of its meaning. -/

namespace Sys2Proof.Machine

def exec (i : Instr) (s : State) : Host.Outcome State Fault Refusal :=
  match i with
  | .powerOn => Sys2Proof.Machine.execPowerOn s
  | .stationReset cause => Sys2Proof.Machine.execStationReset cause s
  | .startUpEnd => Sys2Proof.Machine.execStartUpEnd s
  | .countedMillisecond => Sys2Proof.Machine.execCountedMillisecond s
  | .refLoss => Sys2Proof.Machine.execRefLoss s
  | .refReturn => Sys2Proof.Machine.execRefReturn s
  | .matHello p => Sys2Proof.Machine.execMatHello p s
  | .read p seq chip dtime level => Sys2Proof.Machine.execRead p seq chip dtime level s
  | .syncReport p dtime => Sys2Proof.Machine.execSyncReport p dtime s
  | .matSilenceDeadline p => Sys2Proof.Machine.execMatSilenceDeadline p s
  | .discardedFrame link => Sys2Proof.Machine.execDiscardedFrame link s
  | .byteGapTimeout link => Sys2Proof.Machine.execByteGapTimeout link s
  | .staleDeadline p => Sys2Proof.Machine.execStaleDeadline p s
  | .readCompletion => Sys2Proof.Machine.execReadCompletion s
  | .closeDeadline p chip => Sys2Proof.Machine.execCloseDeadline p chip s
  | .dueDeadline k => Sys2Proof.Machine.execDueDeadline k s
  | .lineExpiry k line => Sys2Proof.Machine.execLineExpiry k line s
  | .screenHello k => Sys2Proof.Machine.execScreenHello k s
  | .frameRequest k last wait => Sys2Proof.Machine.execFrameRequest k last wait s
  | .holdDeadline k => Sys2Proof.Machine.execHoldDeadline k s
  | .screenSilenceDeadline k => Sys2Proof.Machine.execScreenSilenceDeadline k s
  | .controlSilenceDeadline l => Sys2Proof.Machine.execControlSilenceDeadline l s
  | .unknownKind l tag => Sys2Proof.Machine.execUnknownKind l tag s
  | .status l tag => Sys2Proof.Machine.execStatus l tag s
  | .readRunner l tag bib => Sys2Proof.Machine.execReadRunner l tag bib s
  | .readPort l tag port => Sys2Proof.Machine.execReadPort l tag port s
  | .readScreen l tag screen => Sys2Proof.Machine.execReadScreen l tag screen s
  | .readParkList l tag start => Sys2Proof.Machine.execReadParkList l tag start s
  | .readTallies l tag => Sys2Proof.Machine.execReadTallies l tag s
  | .readWatchLog l tag count => Sys2Proof.Machine.execReadWatchLog l tag count s
  | .readConditions l tag => Sys2Proof.Machine.execReadConditions l tag s
  | .ackConditions l tag conds => Sys2Proof.Machine.execAckConditions l tag conds s
  | .setMask l tag conds => Sys2Proof.Machine.execSetMask l tag conds s
  | .claim l tag => Sys2Proof.Machine.execClaim l tag s
  | .seize l tag => Sys2Proof.Machine.execSeize l tag s
  | .release l tag => Sys2Proof.Machine.execRelease l tag s
  | .pass l tag => Sys2Proof.Machine.execPass l tag s
  | .startClock l tag preset => Sys2Proof.Machine.execStartClock l tag preset s
  | .stopClock l tag => Sys2Proof.Machine.execStopClock l tag s
  | .gun l tag wave time => Sys2Proof.Machine.execGun l tag wave time s
  | .setPoint l tag point distance policy display => Sys2Proof.Machine.execSetPoint l tag point distance policy display s
  | .clearPoint l tag point => Sys2Proof.Machine.execClearPoint l tag point s
  | .setPort l tag port point allowance => Sys2Proof.Machine.execSetPort l tag port point allowance s
  | .setLimits l tag limits => Sys2Proof.Machine.execSetLimits l tag limits s
  | .setProfile l tag screen profile => Sys2Proof.Machine.execSetProfile l tag screen profile s
  | .register l tag bib wave chips name => Sys2Proof.Machine.execRegister l tag bib wave chips name s
  | .remove l tag bib => Sys2Proof.Machine.execRemove l tag bib s
  | .setName l tag bib name => Sys2Proof.Machine.execSetName l tag bib name s
  | .amend l tag bib point time => Sys2Proof.Machine.execAmend l tag bib point time s
  | .amendClear l tag bib point => Sys2Proof.Machine.execAmendClear l tag bib point s
  | .accept l tag bib point => Sys2Proof.Machine.execAccept l tag bib point s
  | .withdraw l tag bib => Sys2Proof.Machine.execWithdraw l tag bib s
  | .disqualify l tag bib => Sys2Proof.Machine.execDisqualify l tag bib s
  | .reinstate l tag bib => Sys2Proof.Machine.execReinstate l tag bib s
  | .bind l tag chip bib => Sys2Proof.Machine.execBind l tag chip bib s
  | .discard l tag chip => Sys2Proof.Machine.execDiscard l tag chip s
  | .setWatch l tag bibs => Sys2Proof.Machine.execSetWatch l tag bibs s
  | .setTally l tag tally cls qualifiers limit stop => Sys2Proof.Machine.execSetTally l tag tally cls qualifiers limit stop s
  | .freeze l tag triggers => Sys2Proof.Machine.execFreeze l tag triggers s
  | .thaw l tag => Sys2Proof.Machine.execThaw l tag s
  | .clearTallies l tag => Sys2Proof.Machine.execClearTallies l tag s
  | .store l tag => Sys2Proof.Machine.execStore l tag s
  | .eraseCompletion => Sys2Proof.Machine.execEraseCompletion s
  | .writeCompletion => Sys2Proof.Machine.execWriteCompletion s
  | .raceReset l tag => Sys2Proof.Machine.execRaceReset l tag s
  | .raceResetCompletion => Sys2Proof.Machine.execRaceResetCompletion s
  | .restart l tag => Sys2Proof.Machine.execRestart l tag s
  | .runnerRecordClearing bib => Sys2Proof.Machine.execRunnerRecordClearing bib s

end Sys2Proof.Machine
end

