-- ==== Sys2Proof/Machine/Wire.lean ====
section
/-! DEFINITION. The bytes of the messages the part sends (R188, R189): CREDIT, FRAME, UNCHANGED and RESPONSE. The data
of an OK lists the fields its rule names, in the order named, each as R190 encodes an argument; log entry 6 says what
the model chooses where R190 states no form. -/

namespace Sys2Proof.Machine

/-! ## Fields -/

/-- A number in one byte. -/
def byteOf (n : Nat) : List Byte := [BitVec.ofNat 8 n]

/-- A number in two bytes. -/
def halfOf (n : Nat) : List Byte := putHalf (BitVec.ofNat 16 n)

/-- A number in three bytes: one whose range ends between 65,536 and 16,777,215 (R190). -/
def threeOf (n : Nat) : List Byte := byteOf (n / 65536) ++ halfOf n

/-- A number in four bytes. -/
def wordOf (n : Nat) : List Byte := putWord (BitVec.ofNat 32 n)

/-- A signed number in two bytes, two's complement (DESIGN CHOICE, log entry 6). -/
def signedHalf (v : Int) : List Byte := putHalf (BitVec.ofInt 16 v)

/-- A clock state by its place in the state table (R190). -/
def ClockState.code : ClockState → List Byte
  | .stopped => [0]
  | .running => [1]

/-- A reference status (R190). -/
def RefStatus.code : RefStatus → List Byte
  | .present => [0]
  | .lost => [1]

/-- A link state (R190). -/
def LinkState.code : LinkState → List Byte
  | .down => [0]
  | .up => [1]

/-- A sync state (R190). -/
def SyncState.code : SyncState → List Byte
  | .unsynced => [0]
  | .synced => [1]
  | .stale => [2]

/-- The standing of a held read (R190). -/
def Standing.code : Standing → List Byte
  | .asTaken => [0]
  | .portReset => [1]
  | .void => [2]

/-- A timing policy (R190). -/
def Policy.code : Policy → List Byte
  | .first => [0]
  | .peak => [1]

/-- A registry state (R190). -/
def RegistryState.code : RegistryState → List Byte
  | .ready => [0]
  | .resetting => [1]

/-- A runner's status (R190). -/
def RunnerStatus.code : RunnerStatus → List Byte
  | .registered => [0]
  | .running => [1]
  | .finished => [2]
  | .withdrawn => [3]
  | .disqualified => [4]

/-- A suspect reason: EARLY 0, ORDER 1, FAST 2, behind a presence byte that says whether there is one. R88 lists absent
among the values, and R190 does not say whether it is then a named value of its own (DESIGN CHOICE, log entry 6). -/
def Suspect.code : Suspect → List Byte
  | .early => [0]
  | .order => [1]
  | .fast => [2]

/-- The source of a crossing: a port, or the word CONTROL in its place (R190). -/
def Source.code : Source → List Byte
  | .port p => putChoice byteOf (some p.val)
  | .control => putChoice byteOf none

/-- A session mark (R190). -/
def SessionMark.code : SessionMark → List Byte
  | .fresh => [0]
  | .answered => [1]

/-- A store state (R190). -/
def StoreState.code : StoreState → List Byte
  | .idle => [0]
  | .erasing => [1]
  | .writing => [2]

/-- A control link: A 0, B 1 (DESIGN CHOICE, log entry 6). -/
def Side.code : Side → List Byte
  | .a => [0]
  | .b => [1]

/-- The control token (R190). -/
def Token.code : Token → List Byte
  | .free => [0]
  | .held .a => [1]
  | .held .b => [2]

/-- A reset cause (R190). -/
def ResetCause.code : ResetCause → List Byte
  | .powerOn => [0]
  | .resetLine => [1]
  | .restartCommand => [2]

/-- A condition by its number, 1 to 18 (R190). -/
def Condition.code (c : Condition) : List Byte := byteOf (Condition.all.idxOf c + 1)

/-- A tally class by its number, 0 to 18 (R190). -/
def TallyClass.code (c : TallyClass) : List Byte := byteOf (TallyClass.all.idxOf c)

/-- A result by its number (R189). -/
def Result.code : Result → Byte
  | .ok => 0
  | .pending => 1
  | .busy => 2
  | .notInCharge => 3
  | .notPermitted => 4
  | .locked => 5
  | .unknown => 6
  | .duplicate => 7
  | .full => 8
  | .range => 9
  | .state => 10

/-- A sync record: T and D (R50). -/
def SyncRecord.code (r : SyncRecord) : List Byte := wordOf r.pulse ++ putWord r.dtime

/-! ## The data of an OK (R189) -/

/-- READ PORT (R32, R50, R66). -/
def PortReport.code (r : PortReport) : List Byte :=
  r.link.code ++ byteOf r.outstanding ++ byteOf r.listLength ++ putFlag r.heldHere ++ putByte r.expected
    ++ putByte r.grant ++ byteOf r.unreported ++ r.sync.code ++ signedHalf r.rate ++ byteOf r.records
    ++ putOpt SyncRecord.code r.oldest ++ putOpt SyncRecord.code r.newest ++ putOpt wordOf r.staleDeadline
    ++ halfOf r.allowance ++ putChoice (fun p : Point => byteOf p) r.point ++ byteOf r.passages
    ++ putOpt wordOf r.oldestTaken
    ++ putOpt (fun h : HeldReport => putWord h.chip ++ wordOf h.takeTime ++ byteOf h.point ++ h.standing.code) r.held

/-- A crossing record (R88). -/
def Crossing.code (c : Crossing) : List Byte :=
  wordOf c.time ++ c.source.code ++ putOpt halfOf c.place ++ putFlag c.estimated ++ putFlag c.confirmed
    ++ putFlag c.amended ++ putOpt Suspect.code c.suspect

/-- A crossing with its derived values (R124). One presence byte stands before the three figures of the segment, and one
before each other value that may be absent (DESIGN CHOICE, log entry 6). -/
def CrossingReport.code (r : CrossingReport) : List Byte :=
  r.crossing.code ++ putOpt wordOf r.gunElapsed ++ putOpt threeOf r.gunSeconds ++ putOpt wordOf r.net
    ++ putOpt wordOf r.netSeconds ++ putFlag r.fromGun
    ++ putOpt (fun g : Segment => byteOf g.lower ++ wordOf g.time ++ halfOf g.distance) r.segment
    ++ putOpt halfOf r.pace ++ putOpt wordOf r.projected

/-- READ RUNNER (R82, R124). -/
def RunnerReport.code (r : RunnerReport) : List Byte :=
  putHalf r.bib ++ byteOf r.wave ++ putOpt wordOf r.gun ++ putList putWord r.chips ++ putOpt putName r.name
    ++ r.status.code
    ++ putList (fun x : Point × Option CrossingReport => byteOf x.1 ++ putOpt CrossingReport.code x.2) r.points

/-- A profile (R138). -/
def Profile.code (x : Profile) : List Byte :=
  putFlag x.enabled ++ byteOf x.trigger ++ halfOf x.gap ++ halfOf x.lead ++ halfOf x.defaultPace ++ byteOf x.lines
    ++ halfOf x.hold ++ halfOf x.stale ++ putList (fun w : Wave => byteOf w) x.waves ++ putFlag x.showEstimated
    ++ putFlag x.showProjection ++ halfOf x.pollHold

/-- The line record of a FRAME (R188, R189). -/
def LineRecord.code (r : LineRecord) : List Byte :=
  let bit := fun (b : Bool) (n : Nat) => if b then n else 0
  let flags := bit r.priority 1 + bit r.estimated 2 + bit r.fromGun 4 + bit r.pace.isSome 8 + bit r.projected.isSome 16
    + bit r.name.isSome 32
  putHalf r.bib ++ byteOf r.point ++ byteOf flags ++ wordOf r.netSeconds ++ halfOf (r.pace.getD 0)
    ++ wordOf (r.projected.getD 0) ++ halfOf r.place ++ putName (r.name.getD [])

/-- The record fields of an occupied line in READ SCREEN (R156): the fields of R154 in their order, each as R190 encodes
an argument. The packed record of R188 is the form of a FRAME alone. -/
def LineRecord.fields (r : LineRecord) : List Byte :=
  putHalf r.bib ++ putOpt putName r.name ++ byteOf r.point ++ wordOf r.netSeconds ++ putOpt halfOf r.pace
    ++ putOpt wordOf r.projected ++ halfOf r.place ++ putFlag r.priority ++ putFlag r.estimated ++ putFlag r.fromGun

/-- READ SCREEN (R156). The hold deadline stands in the model's own count of elapsed milliseconds (DESIGN CHOICE, log
entry 6). -/
def ScreenReport.code (r : ScreenReport) : List Byte :=
  r.profile.code ++ r.link.code ++ r.session.code ++ putOpt wordOf r.held ++ putHalf r.seq ++ byteOf r.queueLength
    ++ putList (fun x : QueueReport => putHalf x.bib ++ byteOf x.point ++ putFlag x.priority ++ wordOf x.due
        ++ wordOf x.created) r.items
    ++ putFlag r.waiting
    ++ putList (putOpt fun x : LineReport => x.record.fields ++ wordOf x.due ++ wordOf x.created ++ wordOf x.shownAt
        ++ wordOf x.expiry) r.lines

/-- An entry of READ PARK LIST (R134). -/
def ParkEntry.code (e : ParkEntry) : List Byte :=
  putWord e.chip ++ wordOf e.parkedAt ++ wordOf e.lastUpdate
    ++ e.crossings.toList.flatMap (putOpt fun x => wordOf x.time ++ byteOf x.source ++ putFlag x.estimated)

/-- READ TALLIES (R180). -/
def TallyUnit.code (u : TallyUnit) : List Byte :=
  u.tallies.toList.flatMap (fun t => t.cls.code ++ putList byteOf t.qualifiers ++ putOpt putWord t.limit
      ++ putFlag t.stop ++ putWord t.value)
    ++ putFlag u.frozen ++ putList Condition.code u.triggers

/-- An entry of READ WATCH LOG (R100). -/
def WatchEntry.code (e : WatchEntry) : List Byte :=
  putHalf e.bib ++ byteOf e.point ++ wordOf e.time ++ putOpt wordOf e.netSeconds ++ putOpt Suspect.code e.suspect

/-- A course (R86): each configured point with its number. -/
def Course.code (course : Course) : List Byte :=
  putList (fun x : Point × CoursePoint => byteOf x.1 ++ halfOf x.2.distance ++ x.2.policy.code ++ putFlag x.2.display)
    ((List.finRange 10).filterMap fun p => course[p].map fun x => (p, x))

/-- The six limits (R74). -/
def Limits.code (m : Limits) : List Byte :=
  halfOf m.minPace ++ halfOf m.confirmWindow ++ halfOf m.dwellGap ++ halfOf m.maxDwell ++ halfOf m.projectionFloor
    ++ halfOf m.staleHorizon

/-- STATUS (R174). The pending claim, absent or a link, is a presence byte and the link (DESIGN CHOICE, log entry 6). -/
def StatusReport.code (r : StatusReport) : List Byte :=
  r.clock.code ++ wordOf r.value ++ r.ref.code ++ putFlag r.locked ++ r.guns.toList.flatMap (putOpt wordOf)
    ++ r.mats.toList.flatMap (fun x => x.1.code ++ x.2.code) ++ byteOf r.lastServed ++ putFlag r.readHeld
    ++ r.registry.code ++ halfOf r.runners ++ threeOf r.chips ++ halfOf r.registered ++ halfOf r.running
    ++ halfOf r.finished ++ halfOf r.withdrawn ++ halfOf r.disqualified ++ Course.code r.course
    ++ putOpt (fun p : Point => byteOf p) r.finish ++ r.limits.code ++ r.counters.toList.flatMap halfOf
    ++ byteOf r.parked
    ++ r.screens.toList.flatMap (fun x => x.1.code ++ putHalf x.2.1 ++ byteOf x.2.2) ++ r.store.code
    ++ putFlag r.frozen ++ r.token.code ++ putOpt Side.code r.claim ++ r.linkA.code ++ r.linkB.code
    ++ putFlag r.inProgressA ++ putFlag r.inProgressB ++ byteOf r.watchList ++ byteOf r.watchLog
    ++ putFlag r.overflow ++ r.resetCause.code

/-- The data of a RESPONSE (R189). The ATTN level of READ CONDITIONS is a flag byte, 1 for high (DESIGN CHOICE, log
entry 6). -/
def Answer.code : Answer → List Byte
  | .nothing => []
  | .status r => r.code
  | .runner r => r.code
  | .port r => r.code
  | .screen r => r.code
  | .parkList n entries => byteOf n ++ putList ParkEntry.code entries
  | .tallies u => u.code
  | .watchLog entries overflow => putList WatchEntry.code entries ++ putFlag overflow
  | .conditions pending mask attn => putList Condition.code pending ++ putList Condition.code mask ++ putFlag attn

/-! ## Messages -/

/-- The message that carries what the part sends; a SYNC pulse is no message (R188, R189). -/
def Sent.message : Sent → Option Message
  | .pulse _ => none
  | .credit p grant => some ⟨.mat p, 0x04, putByte grant⟩
  | .frame k seq lines =>
    some ⟨.screen k, 0x13, putHalf seq ++ byteOf lines.length ++ lines.flatMap (putOpt LineRecord.code)⟩
  | .unchanged k seq => some ⟨.screen k, 0x14, putHalf seq⟩
  | .response l tag result data => some ⟨.control l, 0x22, tag :: result.code :: data.code⟩

/-- The frame on the link of what the part sends (R186, R189). -/
def Sent.frameOn (m : Sent) : Option (LinkId × List Byte) := m.message.map fun x => (x.link, frameBytes x.kind x.body)

end Sys2Proof.Machine
end

