-- ==== Sys2Proof/Safety.lean ====
section
/-! DEFINITION. What holds of the part at every moment, as the spec says it: one predicate for each block. -/

namespace Sys2Proof.Machine

/-! ## Race Clock -/

/-- Some wave holds a gun time. -/
def RaceClock.gunned (c : RaceClock) : Prop := ∃ w : Wave, c.guns[w].isSome

/-- The clock value is a race time; the limit mark stands at the greatest one alone, and stands there while the clock
runs (R4); the latest pulse is a whole race second that the running clock has reached (R7, R8); a gun time is not later
than now and there is one only while the clock runs (R3, R9, R10); the course lock is set exactly when a gun was fired
(R12). -/
def RaceClock.Sound (c : RaceClock) : Prop :=
  c.value ≤ Config.maxRaceTime ∧
  (c.limitMark = true → c.value = Config.maxRaceTime) ∧
  (c.state = .running → c.value = Config.maxRaceTime → c.limitMark = true) ∧
  (∀ t, c.latestPulse = some t → t % Config.pulsePeriod = 0 ∧ t ≤ c.value) ∧
  (∀ w : Wave, ∀ t, c.guns[w] = some t → t ≤ c.value) ∧
  (c.gunned → c.state = .running) ∧
  (c.locked = true ↔ c.gunned)

/-! ## Mat Intake and the held read -/

/-- The balance of port `p` (R30): 32 credits, reads in the list and held reads together on an UP port, no credit on a
DOWN one; the grant count matches the expected sequence; a list and a held read together are at most 32; the silence
timer runs exactly on an UP port (R21); no read of chip 0 is in the list (R27). -/
def State.PortBalanced (s : State) (p : Port) : Prop :=
  let m := s.intake[p]
  (m.link = .up → m.outstanding + m.list.length + s.heldOf p = Config.creditBudget ∧
    m.grant = m.expected + BitVec.ofNat 8 m.outstanding) ∧
  (m.link = .down → m.outstanding = 0 ∧ m.unreported = 0) ∧
  m.list.length + s.heldOf p ≤ Config.creditBudget ∧
  (m.timer.isSome = true ↔ m.link = .up) ∧
  (∀ x ∈ m.list, x.chip ≠ 0)

/-- Every mat port is balanced (R30). -/
def State.Balanced (s : State) : Prop := ∀ p : Port, s.PortBalanced p

/-! ## Time Alignment -/

/-- Each record comes after the one before it, in race time and, in the signed sense, in decoder time (R35). -/
def Alignment.Rising : List SyncRecord → Prop
  | x :: y :: rest => x.pulse < y.pulse ∧ 0 < signedDiff y.dtime x.dtime ∧ Rising (y :: rest)
  | _ => True

/-- A history of 0 to 64 rising records (R35), a rate within the clamp (R41), a stale deadline exactly while SYNCED
(R42), and no record without a sync state of its own. -/
def Alignment.Sound (a : Alignment) : Prop :=
  a.history.length ≤ Config.historySize ∧
  Alignment.Rising a.history ∧
  -Config.rateLimit ≤ a.rate ∧ a.rate ≤ Config.rateLimit ∧
  (a.staleDeadline.isSome = true ↔ a.sync = .synced) ∧
  (a.sync = .unsynced ↔ a.history = [])

/-- Every port's alignment is sound, and no record is later than the latest pulse of the clock (R36). -/
def State.Aligned (s : State) : Prop :=
  ∀ p : Port, s.align[p].Sound ∧ ∀ r ∈ s.align[p].history, ∃ t, s.clock.latestPulse = some t ∧ r.pulse ≤ t

/-! ## Passage Unit -/

/-- The chips of a passage list. -/
def chipsOf (l : List Passage) : List Word32 := l.map fun x => x.chip

/-- Each passage list holds at most 128 passages, at most one for a chip (R55), and none for a port that feeds no point
(R61); a held read that is AS TAKEN has its port's point, since SET PORT takes that standing away (R62). -/
def State.PassagesSound (s : State) : Prop :=
  (∀ p : Port, s.passage.lists[p].length ≤ Config.passageListSize ∧ (chipsOf s.passage.lists[p]).Nodup ∧
    (s.passage.lists[p] ≠ [] → s.registry.ports[p].point.isSome = true)) ∧
  (∀ h, s.passage.held = some h → h.standing = .asTaken → s.registry.ports[h.port].point = some h.point)

/-! ## Registry -/

/-- The configured points are contiguous from point 0, which is at distance 0; distances rise with the point and are at
most 60,000 m (R68). -/
def Course.Sound (course : Course) : Prop :=
  (∀ p q : Point, q < p → course[p].isSome = true → course[q].isSome = true) ∧
  (∀ x, course[(0 : Point)] = some x → x.distance = 0) ∧
  (∀ p q : Point, ∀ x y, q < p → course[p] = some x → course[q] = some y → y.distance < x.distance) ∧
  (∀ p : Point, ∀ x, course[p] = some x → x.distance ≤ 60000)

/-- An assigned point is configured, a point is fed by at most two ports, and an allowance is at most 2,000 ms (R72). -/
def portsSound (course : Course) (ports : Vector PortAssignment 12) : Prop :=
  (∀ p : Port, ∀ q, ports[p].point = some q → course[q].isSome = true) ∧
  (∀ q : Point, (List.finRange 12).countP (fun p : Port => ports[p].point == some q) ≤ Config.portsPerPoint) ∧
  (∀ p : Port, ports[p].allowance ≤ 2000)

/-- The six limits lie in their ranges (R74). -/
def Limits.Sound (m : Limits) : Prop :=
  (100 ≤ m.minPace ∧ m.minPace ≤ 400) ∧ (1000 ≤ m.confirmWindow ∧ m.confirmWindow ≤ 60000) ∧
  (200 ≤ m.dwellGap ∧ m.dwellGap ≤ 5000) ∧ (5000 ≤ m.maxDwell ∧ m.maxDwell ≤ 60000) ∧
  (1000 ≤ m.projectionFloor ∧ m.projectionFloor ≤ 40000) ∧ (2000 ≤ m.staleHorizon ∧ m.staleHorizon ≤ 30000)

/-- A profile whose fields lie in their ranges (R138). -/
def Profile.Sound (x : Profile) : Prop :=
  x.gap ≤ 2000 ∧ x.lead ≤ 10000 ∧ (150 ≤ x.defaultPace ∧ x.defaultPace ≤ 600) ∧ (1 ≤ x.lines ∧ x.lines ≤ 4) ∧
  (1000 ≤ x.hold ∧ x.hold ≤ 15000) ∧ x.stale ≤ 30000 ∧ x.pollHold ≤ 10000

/-- A set of working settings in which every setting is sound (R68, R72, R74, R138). -/
def Settings.Sound (w : Settings) : Prop :=
  Course.Sound w.course ∧ portsSound w.course w.ports ∧ w.limits.Sound ∧ ∀ k : ScreenNo, w.profiles[k].Sound

/-- The working settings are sound, and so are those of a snapshot and those of the image (chapter 12). -/
def State.SettingsSound (s : State) : Prop :=
  s.settings.Sound ∧ (∀ w, s.store.snapshot = some w → w.Sound) ∧ (∀ w, s.store.image = some w → w.Sound)

/-- A crossing record whose fields hang together: an AMENDED crossing has source CONTROL, no other flag and no suspect
reason, a crossing of source CONTROL is AMENDED, and only a suspect crossing lacks a place, which is 1 to 65,535
(R88). -/
def Crossing.Sound (c : Crossing) : Prop :=
  (c.amended = true ↔ c.source = .control) ∧
  (c.amended = true → c.estimated = false ∧ c.confirmed = false ∧ c.suspect = none) ∧
  (c.place = none → c.suspect.isSome = true) ∧
  (∀ n, c.place = some n → 1 ≤ n ∧ n ≤ Config.maxPlace)

/-- A runner record: a bib that is not 0, at most two chips, none of them 0, a name that fits (R75), and sound crossings
at configured points alone (R82, R88). -/
def Runner.Sound (course : Course) (r : Runner) : Prop :=
  r.bib ≠ 0 ∧ r.chips.length ≤ Config.chipsPerRunner ∧ 0 ∉ r.chips ∧ optNameFits r.name = true ∧
  ∀ p : Point, ∀ c, r.crossings[p] = some c → c.Sound ∧ course[p].isSome = true

/-- The bibs of the runner table. -/
def Registry.bibs (x : Registry) : List Half := x.runners.map fun r => r.bib

/-- The runner table holds at most 32,768 sound records with bibs that differ (R75); a place counter is at most 65,535
(R81). -/
def State.RunnersSound (s : State) : Prop :=
  s.registry.runners.length ≤ Config.runnerTableSize ∧ s.registry.bibs.Nodup ∧
  (∀ r ∈ s.registry.runners, r.Sound s.registry.course) ∧ ∀ p : Point, s.registry.counters[p] ≤ Config.maxPlace

/-- The chip map leads from each chip of a runner's chip set, and from no other chip, to that runner (R76). -/
def State.ChipsSound (s : State) : Prop :=
  (s.registry.chipMap.map fun x => x.1).Nodup ∧
  ∀ chip bib, (chip, bib) ∈ s.registry.chipMap ↔ ∃ r ∈ s.registry.runners, r.bib = bib ∧ chip ∈ r.chips

/-! ## Park List -/

/-- At most 64 entries with chips that differ, each with at least one parked crossing (R126), and none whose chip is in
the chip map (R76). -/
def State.ParkSound (s : State) : Prop :=
  s.park.length ≤ Config.parkListSize ∧ (s.park.map fun e => e.chip).Nodup ∧
  (∀ e ∈ s.park, ∃ p : Point, e.crossings[p].isSome = true) ∧ ∀ e ∈ s.park, s.bibOf e.chip = none

/-! ## Display Scheduler -/

/-- The items of a screen, in its queue and on its lines. -/
def Screen.items (x : Screen) : List DisplayItem := x.queue ++ x.lines.filterMap fun y => y.map fun z => z.item

/-- A due queue of at most 64 items in due order, as many lines as the profile has, one item for a bib and a point at
most (R141), and a held request and a running timer on an UP link alone (R151, R152). -/
def Screen.Sound (x : Screen) : Prop :=
  x.queue.length ≤ Config.dueQueueSize ∧ x.queue.Pairwise (fun y z => y.due ≤ z.due) ∧
  x.lines.length = x.profile.lines ∧ (x.items.map fun y => (y.bib, y.point)).Nodup ∧
  (x.held.isSome = true → x.link = .up) ∧ (x.timer.isSome = true ↔ x.link = .up)

/-- Every screen is sound (R141). -/
def State.ScreensSound (s : State) : Prop := ∀ k : ScreenNo, s.screens[k].Sound

/-! ## Control Unit -/

/-- A pending claim stands only against a token that the other link holds (R163 to R167). -/
def State.TokenSound (s : State) : Prop := ∀ l, s.control.claim = some l → s.control.token = .held l.other

/-- The watch list holds at most 16 bibs, none 0 and none twice (R171), and the watch log at most 64 entries (R172). -/
def State.WatchSound (s : State) : Prop :=
  s.control.watchList.length ≤ Config.watchListSize ∧ 0 ∉ s.control.watchList ∧ s.control.watchList.Nodup ∧
  s.control.watchLog.length ≤ Config.watchLogSize

/-- A command in progress is the RACE RESET of the requester, and stands only while the Registry is RESETTING and no
start-up is in progress (R85); while it is RESETTING, the clock is STOPPED at 0 with no gun and no lock, no read is
held, no passage is open and nothing is parked (R16, R65, R83, R84, R136, R161). -/
def State.ResetSound (s : State) : Prop :=
  (∀ l, (s.controlLink l).inProgress.isSome = true ↔ s.registry.requester = some l) ∧
  (s.registry.requester.isSome = true → s.resetting = true ∧ s.startUp = false) ∧
  (s.resetting = false → s.registry.clearing = []) ∧
  (s.resetting = true → s.clock.state = .stopped ∧ s.clock.value = 0 ∧ s.clock.locked = false ∧
    (∀ w : Wave, s.clock.guns[w] = none) ∧ s.passage.held = none ∧ (∀ p : Port, s.passage.lists[p] = []) ∧ s.park = [])

/-! ## Tally Unit and Settings Store -/

/-- A tally's qualifiers are values of its class and its limit, when it has one, is not 0 (R176). -/
def State.TalliesSound (s : State) : Prop :=
  ∀ i : Fin 8, (∀ q ∈ s.tally.tallies[i].qualifiers, q < s.tally.tallies[i].cls.qualifierCount) ∧
    s.tally.tallies[i].limit ≠ some 0

/-- A snapshot stands and the validity mark is clear exactly while a STORE runs; a valid mark stands over a whole image
(R183, R184). -/
def State.StoreSound (s : State) : Prop :=
  (s.store.snapshot.isSome = true ↔ s.store.state ≠ .idle) ∧
  (s.store.state ≠ .idle → s.store.valid = false) ∧
  (s.store.state = .writing → s.store.image = none) ∧
  (s.store.valid = true → s.store.image.isSome = true)

/-! ## Commands of the control links -/

/-- The link and the tag of a command that arrives on a control link (R160, R188). -/
def sender : Instr → Option (Side × Byte)
  | .unknownKind l tag => some (l, tag)
  | i => i.commandBody.map fun c => (c.link, c.tag)

/-- The commands that do not need the control token: the queries, the condition commands and the token commands
(R162). -/
def isOpen : Instr → Bool
  | .status .. | .readRunner .. | .readPort .. | .readScreen .. | .readParkList .. | .readTallies .. | .readWatchLog ..
  | .readConditions .. | .ackConditions .. | .setMask .. | .claim .. | .seize .. | .release .. | .pass ..
  | .unknownKind .. => true
  | _ => false

/-- The commands that are refused with BUSY while the Registry is RESETTING (R84). -/
def barredByReset : Instr → Bool
  | .startClock .. | .stopClock .. | .gun .. | .setPoint .. | .clearPoint .. | .setPort .. | .setLimits .. | .register ..
  | .remove .. | .setName .. | .raceReset .. | .amend .. | .amendClear .. | .accept .. | .withdraw .. | .disqualify ..
  | .reinstate .. | .bind .. | .discard .. | .readRunner .. => true
  | _ => false

/-- A command that arrives on link `l` is judged by its own rule: start-up is over and the link has no command in
progress (R161, R185). -/
abbrev State.ready (s : State) (l : Side) : Prop := s.startUp = false ∧ (s.controlLink l).inProgress = none

/-- Link `l` is ready and holds the control token (R162). -/
abbrev State.inCharge (s : State) (l : Side) : Prop := s.ready l ∧ s.control.token = .held l

/-- Link `l` is in charge and the Registry is READY (R84). -/
abbrev State.mayEdit (s : State) (l : Side) : Prop := s.inCharge l ∧ s.registry.state = .ready

end Sys2Proof.Machine
end

