-- ==== Sys2Proof/Certificates/Slice0/Obligations.lean ====
section
/-! DEFINITION. The statements for the provers. A statement of a command says what its next state is, with every field
it does not name kept: most give the whole next state, built on `State.hearControl`, which brings the sending link UP
and restarts its timer (R160), and end it with the RESPONSE (R189). -/

open Sys2Proof Sys2Proof.Machine

/-! ## The machine -/

/-- A step runs the command at the front of the queue on the state with the rest of the queue; on an empty queue the
part idles, which is the model's choice (log entry 4). -/
def Obligations.StepRunsFrontCommand : Prop :=
  (∀ (s : State) (c : Instr) (rest : List Instr), s.pending = c :: rest → step s = exec c { s with pending := rest }) ∧
  (∀ s : State, s.pending = [] → step s = .next s)

/-- The state after reset is the power-on state of every block with the default settings: the empty course, unassigned
ports with allowance 250, the limits of R74 and the profile of R139 on every screen (R14, R33, R49, R64, R85, R136, R139,
R158, R175, R181, R182). Start-up is in progress. The image that holds nothing, with its mark cleared, is the model's
choice (log entry 2). -/
def Obligations.ResetIsPowerOnState : Prop :=
  let s := State.reset
  (s.clock = { state := .stopped, value := 0, limitMark := false, ref := .present, supervised := false,
               latestPulse := none, guns := Vector.replicate 16 none, locked := false }) ∧
  (∀ p : Port, s.intake[p] = { link := .down, list := [], outstanding := 0, expected := 0, grant := 0, unreported := 0,
                               timer := none }) ∧
  (∀ p : Port, s.align[p] = { history := [], rate := 0, sync := .unsynced, staleDeadline := none }) ∧
  (s.passage.lastServed = 11 ∧ s.passage.held = none ∧ ∀ p : Port, s.passage.lists[p] = []) ∧
  ((∀ p : Point, s.registry.course[p] = none) ∧ (∀ p : Port, s.registry.ports[p] = { point := none, allowance := 250 }) ∧
    s.registry.limits = { minPace := 160, confirmWindow := 10000, dwellGap := 1500, maxDwell := 20000,
                          projectionFloor := 5000, staleHorizon := 5000 } ∧
    s.registry.runners = [] ∧ s.registry.chipMap = [] ∧ (∀ p : Point, s.registry.counters[p] = 0) ∧
    s.registry.state = .ready ∧ s.registry.requester = none ∧ s.registry.clearing = []) ∧
  s.park = [] ∧
  (∀ k : ScreenNo, s.screens[k] = {
    profile := { enabled := false, trigger := 0, gap := 0, lead := 0, defaultPace := 360, lines := 1, hold := 4000,
                 stale := 5000, waves := List.finRange 16, showEstimated := false, showProjection := true,
                 pollHold := 2000 }
    queue := [], lines := [none], waiting := false, seq := 0, link := .down, session := .fresh, held := none
    timer := none }) ∧
  s.settings = Settings.defaults ∧
  (s.control.token = .free ∧ s.control.claim = none ∧ s.control.watchList = [] ∧ s.control.watchLog = [] ∧
    s.control.overflow = false ∧ s.control.resetCause = .powerOn ∧
    ∀ l, s.controlLink l = { link := .down, timer := none, inProgress := none, pending := [], mask := [] }) ∧
  (s.tally.frozen = false ∧ s.tally.triggers = [] ∧
    ∀ i : Fin 8, s.tally.tallies[i] = { cls := .none, qualifiers := [], limit := none, stop := false, value := 0 }) ∧
  s.store = { image := none, valid := false, state := .idle, snapshot := none } ∧
  s.startUp = true ∧ s.restartDue = false ∧ s.elapsed = 0 ∧ s.sent = [] ∧ s.pending = []

/-- Every invariant below holds of the state after reset. -/
def Obligations.ResetStateIsSound : Prop :=
  State.reset.clock.Sound ∧ State.reset.Balanced ∧ State.reset.Aligned ∧ State.reset.PassagesSound ∧
  State.reset.SettingsSound ∧ State.reset.RunnersSound ∧ State.reset.ChipsSound ∧ State.reset.ParkSound ∧
  State.reset.ScreensSound ∧ State.reset.TokenSound ∧ State.reset.WatchSound ∧ State.reset.ResetSound ∧
  State.reset.TalliesSound ∧ State.reset.StoreSound

/-! ## Resets and start-up -/

/-- POWER_ON: every block takes its power-on state over the settings of a valid image, or over the defaults, and the
image and its mark are kept (R182). -/
def Obligations.PowerOnLoadsSettings : Prop :=
  ∀ (s : State) (w : Settings),
    (s.store.valid = true ∧ s.store.image = some w ∨ s.store.valid = false ∧ w = Settings.defaults) →
    exec .powerOn s = .next { s with
      clock := { state := .stopped, value := 0, limitMark := false, ref := .present, supervised := false,
                 latestPulse := none, guns := Vector.replicate 16 none, locked := false }
      intake := Vector.replicate 12 { link := .down, list := [], outstanding := 0, expected := 0, grant := 0,
                                      unreported := 0, timer := none }
      align := Vector.replicate 12 { history := [], rate := 0, sync := .unsynced, staleDeadline := none }
      passage := { lastServed := 11, held := none, lists := Vector.replicate 12 [] }
      registry := { course := w.course, ports := w.ports, limits := w.limits, runners := [], chipMap := [],
                    counters := Vector.replicate 10 0, state := .ready, requester := none, clearing := [] }
      park := []
      screens := Vector.ofFn fun k : ScreenNo =>
        { profile := w.profiles[k], queue := [], lines := List.replicate w.profiles[k].lines none, waiting := false,
          seq := 0, link := .down, session := .fresh, held := none, timer := none }
      control := { token := .free, claim := none, linkA := ControlLink.reset, linkB := ControlLink.reset,
                   watchList := [], watchLog := [], overflow := false, resetCause := .powerOn }
      tally := { tallies := Vector.replicate 8 Tally.reset, frozen := false, triggers := [] }
      store := { s.store with state := .idle, snapshot := none }
      startUp := true
      restartDue := false }

/-- STATION_RESET from the RESET line, or after a RESTART was answered: the clock, the settings and the records are
kept, the links, intake, alignment, passages, parked crossings, screens, token, conditions and tallies are reset, and a
STORE in flight is cut (R15, R33, R49, R64, R85, R136, R158, R175, R181, R184). -/
def Obligations.StationResetKeepsRecords : Prop :=
  ∀ (s : State) (cause : StationCause) (rc : ResetCause),
    (cause = .resetLine ∧ rc = .resetLine ∨ cause = .restart ∧ s.restartDue = true ∧ rc = .restartCommand) →
    exec (.stationReset cause) s = .next { s with
      intake := Vector.replicate 12 { link := .down, list := [], outstanding := 0, expected := 0, grant := 0,
                                      unreported := 0, timer := none }
      align := Vector.replicate 12 { history := [], rate := 0, sync := .unsynced, staleDeadline := none }
      passage := { lastServed := 11, held := none, lists := Vector.replicate 12 [] }
      registry := { s.registry with requester := none }
      park := []
      screens := Vector.ofFn fun k : ScreenNo =>
        { profile := s.screens[k].profile, queue := [], lines := List.replicate s.screens[k].profile.lines none,
          waiting := false, seq := 0, link := .down, session := .fresh, held := none, timer := none }
      control := { token := .free, claim := none, linkA := ControlLink.reset, linkB := ControlLink.reset,
                   watchList := s.control.watchList, watchLog := [], overflow := false, resetCause := rc }
      tally := { tallies := Vector.replicate 8 Tally.reset, frozen := false, triggers := [] }
      store := { s.store with state := .idle, snapshot := none }
      startUp := true
      restartDue := false }

/-- START_UP_END completes: a Race Reset in flight is completed without an answer, RESTARTED joins both pending sets, and
STORE_INVALID with it exactly when the reset cause is POWER_ON and the image is not valid, a condition of the freeze
trigger set freezes the tallies, and supervision of REF begins; nothing is sent and nothing else changes, and then waiting
reads may be taken (R5, R51, R85, R175, R179, R185). That the recorded reset cause alone says which start-up ends is the
model's reading (log entry 34). -/
def Obligations.StartUpEndsReady : Prop :=
  ∀ s : State, s.startUp = true → ∃ a b : CondSet,
    let invalid := s.control.resetCause = .powerOn ∧ s.store.valid = false
    let raised := fun c : Condition => c = .restarted ∨ c = .storeInvalid ∧ invalid
    (∀ c, c ∈ a ↔ raised c ∨ c ∈ s.control.linkA.pending) ∧ (∀ c, c ∈ b ↔ raised c ∨ c ∈ s.control.linkB.pending) ∧
    exec .startUpEnd s = .next ({ s with
      startUp := false
      registry := if s.registry.state = .resetting then
          { s.registry with
            runners := s.registry.runners.map fun r => if s.registry.clearing.contains r.bib then
              { r with crossings := Vector.replicate 10 none, status := .registered } else r
            clearing := []
            counters := Vector.replicate 10 0
            state := .ready
            requester := none }
        else { s.registry with requester := none }
      clock := { s.clock with supervised := true }
      control := { s.control with
        linkA := { s.control.linkA with pending := a }, linkB := { s.control.linkB with pending := b } }
      tally := { s.tally with frozen := s.tally.frozen || decide (∃ c ∈ s.tally.triggers, raised c) }
    } : State).takeReads

/-- RACE RESET, taken while READY: every block applies its part of the beginning, and the command stays in progress
(R16, R34, R49, R65, R83, R136, R159, R175). The order of the CREDITs over the ports, 0 to 11, is the model's choice
(log entry 16). -/
def Obligations.RaceResetBegins : Prop :=
  ∀ (s : State) (l : Side) (tag : Byte), s.mayEdit l → ∃ t, exec (.raceReset l tag) s = .next t ∧
    t.clock = { s.clock with state := .stopped, value := 0, limitMark := false, latestPulse := none,
                             guns := Vector.replicate 16 none, locked := false } ∧
    (∀ p : Port, s.intake[p].link = .up → t.intake[p] = { s.intake[p] with
      list := [], outstanding := 32, unreported := 0,
      grant := s.intake[p].grant + BitVec.ofNat 8 (s.intake[p].list.length + s.heldOf p) }) ∧
    (∀ p : Port, s.intake[p].link = .down → t.intake[p] = { s.intake[p] with list := [] }) ∧
    t.sent = s.sent ++ (((List.finRange 12).filter fun p : Port => s.intake[p].link == .up).map fun p : Port =>
      Sent.credit p (s.intake[p].grant + BitVec.ofNat 8 (s.intake[p].list.length + s.heldOf p))) ∧
    (∀ p : Port, t.align[p] = { history := [], rate := 0, sync := .unsynced, staleDeadline := none }) ∧
    t.passage = { s.passage with held := none, lists := Vector.replicate 12 [] } ∧
    t.registry = { s.registry with
      state := .resetting, requester := some l, clearing := s.registry.runners.map fun r => r.bib } ∧
    t.park = [] ∧
    (∀ k : ScreenNo, t.screens[k] = { s.screens[k] with
      queue := [], lines := List.replicate s.screens[k].profile.lines none, waiting := false, held := none,
      seq := s.screens[k].seq + 1 }) ∧
    t.control = { (s.control.setLink l { s.controlLink l with
        link := .up, timer := some (s.elapsed + 10000), inProgress := some { kind := 39, tag } }) with
      watchLog := [], overflow := false } ∧
    t.tally = s.tally ∧ t.store = s.store ∧ t.startUp = s.startUp ∧ t.restartDue = s.restartDue ∧
    t.elapsed = s.elapsed ∧ t.pending = s.pending

/-- RUNNER_RECORD_CLEARING clears one record, and with the last one the place counters; RACE_RESET_COMPLETION, when every
record is cleared, makes the Registry READY, answers the RACE RESET on its link and lets reads be taken (R84). That the
records are cleared one by one, in an order from outside, is the model's choice (log entry 15). -/
def Obligations.RaceResetClearsAndCompletes : Prop :=
  (∀ (s : State) (bib : Half), s.registry.state = .resetting → bib ∈ s.registry.clearing →
    exec (.runnerRecordClearing bib) s = .next { s with registry := { s.registry with
      runners := s.registry.runners.map fun r => if r.bib = bib then
        { r with crossings := Vector.replicate 10 none, status := .registered } else r
      clearing := s.registry.clearing.filter fun b => b != bib
      counters := if (s.registry.clearing.filter fun b => b != bib) = [] then Vector.replicate 10 0
        else s.registry.counters } }) ∧
  (∀ (s : State) (l : Side) (c : Progress), s.registry.state = .resetting → s.registry.clearing = [] →
    s.registry.requester = some l → (s.controlLink l).inProgress = some c →
    exec .raceResetCompletion s = .next (({ s with registry := { s.registry with
        counters := Vector.replicate 10 0, state := .ready, requester := none } }.withLink l
      { s.controlLink l with inProgress := none }).respond l c.tag .ok .nothing).takeReads)

/-- Every command of the list of R84 is refused with BUSY while the Registry is RESETTING, from a link that may send
it. -/
def Obligations.ResettingRefusesListedCommands : Prop :=
  ∀ (c : Instr) (s : State) (l : Side) (tag : Byte), sender c = some (l, tag) → barredByReset c = true → s.ready l →
    (isOpen c = true ∨ s.control.token = .held l) → s.registry.state = .resetting →
    exec c s = .next ((s.hearControl l).respond l tag .busy .nothing)

/-- While start-up is in progress every COMMAND and every screen frame is discarded (R185); after it, a command on a
link with a command in progress is answered BUSY, and one that needs the token, on a link that does not hold it, is
answered NOT_IN_CHARGE; neither changes anything else (R161, R162). -/
def Obligations.CommandsAreJudgedInOrder : Prop :=
  (∀ (c : Instr) (s : State), (sender c).isSome = true → s.startUp = true → exec c s = .next s) ∧
  (∀ (s : State) (k : ScreenNo) (last : Half) (wait : Bool), s.startUp = true →
    exec (.screenHello k) s = .next s ∧ exec (.frameRequest k last wait) s = .next s) ∧
  (∀ (c : Instr) (s : State) (l : Side) (tag : Byte), sender c = some (l, tag) → s.startUp = false →
    (s.controlLink l).inProgress.isSome = true → exec c s = .next ((s.hearControl l).respond l tag .busy .nothing)) ∧
  (∀ (c : Instr) (s : State) (l : Side) (tag : Byte), sender c = some (l, tag) → isOpen c = false → s.ready l →
     s.control.token ≠ .held l → exec c s = .next ((s.hearControl l).respond l tag .notInCharge .nothing))

/-! ## Race Clock -/

/-- COUNTED_MILLISECOND: a STOPPED clock and a clock at its limit keep their value; a RUNNING clock rises by 1, drives a
pulse at each whole race second, and sets the limit mark and raises CLOCK_LIMIT at 4,294,967,295 (R1, R4, R7, R8).
`elapsed` is the model's own count of milliseconds (log entry 8). -/
def Obligations.CountedMillisecondCounts : Prop :=
  (∀ s : State, s.clock.state = .stopped ∨ s.clock.value = 4294967295 →
    exec .countedMillisecond s = .next { s with elapsed := s.elapsed + 1 }) ∧
  (∀ s : State, s.clock.state = .running → s.clock.value + 1 < 4294967295 → (s.clock.value + 1) % 1000 ≠ 0 →
    exec .countedMillisecond s = .next { s with
      elapsed := s.elapsed + 1, clock := { s.clock with value := s.clock.value + 1 } }) ∧
  (∀ s : State, s.clock.state = .running → s.clock.value + 1 < 4294967295 → (s.clock.value + 1) % 1000 = 0 →
    exec .countedMillisecond s = .next { s with
      elapsed := s.elapsed + 1
      clock := { s.clock with value := s.clock.value + 1, latestPulse := some (s.clock.value + 1) }
      sent := s.sent ++ [Sent.pulse (s.clock.value + 1)] }) ∧
  (∀ s : State, s.clock.state = .running → s.clock.value + 1 = 4294967295 → s.clock.limitMark = false →
    exec .countedMillisecond s = .next ({ s with
      elapsed := s.elapsed + 1, clock := { s.clock with value := 4294967295, limitMark := true } }.raise .clockLimit))

/-- REF_LOSS while PRESENT makes the status LOST and raises REF_LOST; REF_RETURN while LOST makes it PRESENT and raises
nothing; neither touches the count (R6). -/
def Obligations.RefLossAndReturn : Prop :=
  (∀ s : State, s.clock.supervised = true → s.clock.ref = .present →
    exec .refLoss s = .next ({ s with clock := { s.clock with ref := .lost } }.raise .refLost)) ∧
  (∀ s : State, s.clock.supervised = true → s.clock.ref = .lost →
    exec .refReturn s = .next { s with clock := { s.clock with ref := .present } })

/-- START CLOCK on a STOPPED clock: the value becomes the preset, every alignment is cleared, every passage is discarded
and the held read becomes VOID; a preset that is a whole race second drives its pulse (R2, R4, R7, R8, R47, R63). In
RUNNING it is refused with STATE (R2). -/
def Obligations.StartClockStarts : Prop :=
  (∀ (s : State) (l : Side) (tag : Byte) (preset : Option Word32) (v : Nat), s.mayEdit l → s.clock.state = .stopped →
    v = (preset.map fun x => x.toNat).getD 0 →
    let t : State := { s.hearControl l with
      clock := { s.clock with
        state := .running, value := v, limitMark := decide (v = 4294967295),
        latestPulse := if v % 1000 = 0 then some v else none }
      align := Vector.replicate 12 { history := [], rate := 0, sync := .unsynced, staleDeadline := none }
      passage := { s.passage with
        held := s.passage.held.map fun h => { h with standing := .void }, lists := Vector.replicate 12 [] } }
    let u := if v = 4294967295 ∧ s.clock.limitMark = false then t.raise .clockLimit else t
    exec (.startClock l tag preset) s =
      .next ((if v % 1000 = 0 then u.transmit (.pulse v) else u).respond l tag .ok .nothing)) ∧
  (∀ (s : State) (l : Side) (tag : Byte) (preset : Option Word32), s.mayEdit l → s.clock.state = .running →
    exec (.startClock l tag preset) s = .next ((s.hearControl l).respond l tag .state .nothing))

/-- STOP CLOCK on a RUNNING clock without a gun time stops it and keeps all else of it; with a gun time, or STOPPED, it
is refused with STATE (R3). -/
def Obligations.StopClockStops : Prop :=
  (∀ (s : State) (l : Side) (tag : Byte), s.mayEdit l → s.clock.state = .running →
    (∀ w : Wave, s.clock.guns[w] = none) →
    exec (.stopClock l tag) s =
      .next ({ s.hearControl l with clock := { s.clock with state := .stopped } }.respond l tag .ok .nothing)) ∧
  (∀ (s : State) (l : Side) (tag : Byte), s.mayEdit l →
    (s.clock.state = .stopped ∨ ∃ w : Wave, s.clock.guns[w].isSome = true) →
    exec (.stopClock l tag) s = .next ((s.hearControl l).respond l tag .state .nothing))

/-- GUN: after its checks the wave's gun time becomes the time given, or now, and the course lock is set; a wave number
or a time out of range is refused with RANGE, a STOPPED clock and a re-gun of a wave with a crossing with STATE (R10,
R11, R12). -/
def Obligations.GunSetsWaveAndLock : Prop :=
  (∀ (s : State) (l : Side) (tag wave : Byte) (time : Option Word32) (w : Wave) (t : Nat), s.mayEdit l →
    wave.toNat = w.val → t = (time.map fun x => x.toNat).getD s.clock.value → s.clock.state = .running →
    t ≤ s.clock.value →
    (s.clock.guns[w] = none ∨ ∀ r ∈ s.registry.runners, r.wave = w → ∀ p : Point, r.crossings[p] = none) →
    exec (.gun l tag wave time) s = .next ({ s.hearControl l with
      clock := { s.clock with guns := s.clock.guns.set w (some t), locked := true } }.respond l tag .ok .nothing)) ∧
  (∀ (s : State) (l : Side) (tag wave : Byte) (time : Option Word32), s.mayEdit l → 15 < wave.toNat →
    exec (.gun l tag wave time) s = .next ((s.hearControl l).respond l tag .range .nothing)) ∧
  (∀ (s : State) (l : Side) (tag wave : Byte) (time : Option Word32), s.mayEdit l → wave.toNat ≤ 15 →
    s.clock.state = .stopped →
    exec (.gun l tag wave time) s = .next ((s.hearControl l).respond l tag .state .nothing)) ∧
  (∀ (s : State) (l : Side) (tag wave : Byte) (time : Word32), s.mayEdit l → wave.toNat ≤ 15 →
    s.clock.state = .running → s.clock.value < time.toNat →
    exec (.gun l tag wave (some time)) s = .next ((s.hearControl l).respond l tag .range .nothing)) ∧
  (∀ (s : State) (l : Side) (tag wave : Byte) (time : Option Word32) (w : Wave) (r : Runner) (p : Point), s.mayEdit l →
    wave.toNat = w.val → s.clock.state = .running → (∀ x ∈ time, x.toNat ≤ s.clock.value) →
    s.clock.guns[w].isSome = true → r ∈ s.registry.runners → r.wave = w → r.crossings[p].isSome = true →
    exec (.gun l tag wave time) s = .next ((s.hearControl l).respond l tag .state .nothing))

/-! ## Mat Intake and Time Alignment -/

/-- MAT_HELLO opens the accounts of a new session on a DOWN port and sends its first CREDIT; on an UP port it does the
same and clears the port's alignment (R19, R20, R48). -/
def Obligations.HelloOpensSession : Prop :=
  ∀ (s : State) (p : Port),
    let credits := 32 - s.intake[p].list.length - (if s.passage.held.any (fun h => h.port == p) then 1 else 0)
    let opened : MatIntake :=
      { link := .up, list := s.intake[p].list, outstanding := credits, expected := 0, grant := BitVec.ofNat 8 credits,
        unreported := 0, timer := some (s.elapsed + 3000) }
    (s.intake[p].link = .down →
      exec (.matHello p) s = .next { s with
        intake := s.intake.set p opened, sent := s.sent ++ [Sent.credit p (BitVec.ofNat 8 credits)] }) ∧
    (s.intake[p].link = .up →
      exec (.matHello p) s = .next { s with
        intake := s.intake.set p opened, sent := s.sent ++ [Sent.credit p (BitVec.ofNat 8 credits)]
        align := s.align.set p { history := [], rate := 0, sync := .unsynced, staleDeadline := none } })

/-- READ, accepted: the reads that never came are counted and their credits returned, then the read joins the list
against one credit, or, when its chip is 0, is dropped with its credit returned; the CREDIT check follows a return, and
a read that joined may be taken (R23, R24, R25, R27, R51). -/
def Obligations.ReadIsAccepted : Prop :=
  ∀ (s : State) (p : Port) (seq : Byte) (chip dtime : Word32) (level : Byte) (d : Nat),
    s.intake[p].link = .up → d = (seq - s.intake[p].expected).toNat → d < s.intake[p].outstanding →
    let m := s.intake[p]
    let lost := s.countTimes .readLost p d
    (chip ≠ 0 →
      let t := (lost.withIntake p { m with
        list := m.list ++ [{ chip, dtime, level, arrival := s.clock.value }], outstanding := m.outstanding - 1,
        expected := seq + 1, grant := m.grant + BitVec.ofNat 8 d, unreported := m.unreported + d,
        timer := some (s.elapsed + 3000) }).count .readAccepted p
      exec (.read p seq chip dtime level) s = .next (if d = 0 then t else t.creditCheck p).takeReads) ∧
    (chip = 0 →
      let t := (lost.withIntake p { m with
        expected := seq + 1, grant := m.grant + BitVec.ofNat 8 d + 1, unreported := m.unreported + d + 1,
        timer := some (s.elapsed + 3000) }).count .readDropped p
      exec (.read p seq chip dtime level) s = .next (t.creditCheck p))

/-- READ, dropped: on a DOWN port it counts READ_DROPPED alone; on an UP port it restarts the timer too, and without a
credit outstanding it raises CREDIT_OVERRUN (R18, R26). -/
def Obligations.ReadIsDropped : Prop :=
  ∀ (s : State) (p : Port) (seq : Byte) (chip dtime : Word32) (level : Byte),
    let heard := s.withIntake p { s.intake[p] with timer := some (s.elapsed + 3000) }
    (s.intake[p].link = .down →
      exec (.read p seq chip dtime level) s = .next (s.count .readDropped p)) ∧
    (s.intake[p].link = .up → s.intake[p].outstanding = 0 →
      exec (.read p seq chip dtime level) s = .next ((heard.count .readDropped p).raise .creditOverrun)) ∧
    (s.intake[p].link = .up → s.intake[p].outstanding ≠ 0 →
      s.intake[p].outstanding ≤ (seq - s.intake[p].expected).toNat →
      exec (.read p seq chip dtime level) s = .next (heard.count .readDropped p))

/-- A take serves the first port with a read after the last one served, and goes on until a read is held: a read taken
while the clock is STOPPED or from a port without a point is dropped and its credit returned, any other is held with
its race time; nothing is taken while a read is held, in start-up or while RESETTING (R28, R51, R52). A read of a SYNCED
port is converted against the newest record, its correction rounded half away from zero and the result bounded; of any
other port it is estimated from its arrival less the allowance (R44, R45). -/
def Obligations.TakesServeInRotation : Prop :=
  (∀ s : State, (s.passage.held.isSome = true ∨ s.startUp = true ∨ s.registry.state = .resetting ∨
      ∀ p : Port, s.intake[p].list = []) → s.takeReads = s) ∧
  (∀ (s : State) (p : Port) (x : IntakeRead) (rest : List IntakeRead), s.passage.held = none → s.startUp = false →
    s.registry.state = .ready → s.intake[p].list = x :: rest →
    (∀ i : Fin 12, (i < p - (s.passage.lastServed + 1)) → s.intake[s.passage.lastServed + 1 + i].list = []) →
    let t := ({ s with
      intake := s.intake.set p { s.intake[p] with list := rest }
      passage := { s.passage with lastServed := p } }).creditCheck p
    (∀ q, s.registry.ports[p].point = some q → s.clock.state = .running →
      s.takeReads = { t with passage := { t.passage with held := some {
        chip := x.chip, dtime := x.dtime, level := x.level, arrival := x.arrival, port := p, takeTime := s.clock.value,
        point := q, time := (s.convert p x).1, estimated := (s.convert p x).2, standing := .asTaken } } }) ∧
    (s.registry.ports[p].point = none ∨ s.clock.state = .stopped →
      s.takeReads = ((t.count .readDropped p).returnCredit p).takeReads)) ∧
  (∀ (s : State) (p : Port) (x : IntakeRead),
    (s.align[p].sync ≠ .synced → s.convert p x = (x.arrival - s.registry.ports[p].allowance, true)) ∧
    (∀ n, s.align[p].sync = .synced → s.align[p].history.getLast? = some n →
      let delta : Int := (x.dtime - n.dtime).toInt
      ∃ c : Int, 2 * |c * 1000000 - delta * s.align[p].rate| ≤ 1000000 ∧
        (2 * |c * 1000000 - delta * s.align[p].rate| = 1000000 → |delta * s.align[p].rate| < |c * 1000000|) ∧
        s.convert p x = (min ((n.pulse : Int) + delta + c).toNat 4294967295, false)))

/-- A completed read returns its credit to a port that is UP and to no other; the CREDIT check sends the grant count when
eight credits are unreported, or one with the list empty (R29). -/
def Obligations.CreditReturnsAndIsReported : Prop :=
  ∀ (s : State) (p : Port),
    let m := s.intake[p]
    (m.link = .down → s.returnCredit p = s ∧ s.creditCheck p = s) ∧
    (m.link = .up → s.returnCredit p = (s.withIntake p { m with
      outstanding := m.outstanding + 1, grant := m.grant + 1, unreported := m.unreported + 1 }).creditCheck p) ∧
    (m.link = .up → 8 ≤ m.unreported ∨ 1 ≤ m.unreported ∧ m.list = [] →
      s.creditCheck p = (s.withIntake p { m with unreported := 0 }).transmit (.credit p m.grant)) ∧
    (m.unreported < 8 → (m.unreported = 0 ∨ m.list ≠ []) → s.creditCheck p = s)

/-- SYNC_REPORT restarts the timer of an UP port; the report is late, a duplicate, the first record of a restarted
decoder clock, or appended with a new rate, measured between the oldest and the newest record, and a new stale deadline
(R31, R36, R37, R38, R39, R40, R41, R42). -/
def Obligations.SyncReportIsMatched : Prop :=
  ∀ (s : State) (p : Port) (d : Word32),
    let a := s.align[p]
    let heard := s.hearMat p
    (s.clock.state = .stopped ∨ s.clock.latestPulse = none ∨
        (∃ t, s.clock.latestPulse = some t ∧ 800 ≤ s.clock.value - t) →
      exec (.syncReport p d) s = .next (heard.count .syncLate p)) ∧
    (∀ t, s.clock.state = .running → s.clock.latestPulse = some t → s.clock.value - t < 800 →
      (∀ n, a.history.getLast? = some n → n.pulse = t →
        exec (.syncReport p d) s = .next (heard.count .syncLate p)) ∧
      (∀ n, a.history.getLast? = some n → n.pulse ≠ t → (d - n.dtime).toInt ≤ 0 →
        exec (.syncReport p d) s = .next ((heard.withAlign p {
          history := [{ pulse := t, dtime := d }], rate := 0, sync := .synced
          staleDeadline := some (min (t + s.registry.limits.staleHorizon) 4294967295) }).count .syncAccepted p)) ∧
      ((∀ n, a.history.getLast? = some n → n.pulse ≠ t ∧ 0 < (d - n.dtime).toInt) →
        let r : SyncRecord := { pulse := t, dtime := d }
        let h := (if a.history.length < 64 then a.history else a.history.tail) ++ [r]
        let rate := measuredRate (h.head?.getD r) r
        exec (.syncReport p d) s = .next ((((heard.withAlign p {
            history := h
            rate := match rate with
              | some v => max (-200) (min 200 v)
              | none => a.rate
            sync := .synced
            staleDeadline := some (min (t + s.registry.limits.staleHorizon) 4294967295) }).count .syncAccepted p).raiseIf
          (match rate with
            | some v => decide (v < -200 ∨ 200 < v)
            | none => false) .driftLimit))))

/-- A silence deadline that is reached takes its mat port or screen link DOWN and raises LINK_DOWN; a stale deadline that
the running clock has reached makes a SYNCED port STALE and raises SYNC_LOST (R21, R42, R151). -/
def Obligations.SilenceAndStaleDeadlines : Prop :=
  (∀ (s : State) (p : Port) (dl : Nat), s.intake[p].link = .up → s.intake[p].timer = some dl → dl ≤ s.elapsed →
    exec (.matSilenceDeadline p) s = .next ((s.withIntake p { s.intake[p] with
      link := .down, outstanding := 0, unreported := 0, timer := none }).raise .linkDown)) ∧
  (∀ (s : State) (k : ScreenNo) (dl : Nat), s.screens[k].link = .up → s.screens[k].timer = some dl → dl ≤ s.elapsed →
    exec (.screenSilenceDeadline k) s = .next ((s.withScreen k { s.screens[k] with
      link := .down, held := none, timer := none }).raise .linkDown)) ∧
  (∀ (s : State) (p : Port) (dl : Nat), s.clock.state = .running → s.align[p].sync = .synced →
    s.align[p].staleDeadline = some dl → dl ≤ s.clock.value →
    exec (.staleDeadline p) s = .next ((s.withAlign p { s.align[p] with
      sync := .stale, staleDeadline := none }).raise .syncLost))

/-- A discarded frame and a byte gap count one FRAME_ERROR on a mat link and change nothing on a screen or control link
(R22, R151, R160, R187). -/
def Obligations.DiscardedFramesCountOnMats : Prop :=
  (∀ (s : State) (p : Port), exec (.discardedFrame (.mat p)) s = .next (s.count .frameError p) ∧
    exec (.byteGapTimeout (.mat p)) s = .next (s.count .frameError p)) ∧
  (∀ (s : State) (k : ScreenNo), exec (.discardedFrame (.screen k)) s = .next s ∧
    exec (.byteGapTimeout (.screen k)) s = .next s) ∧
  (∀ (s : State) (l : Side), exec (.discardedFrame (.control l)) s = .next s ∧
    exec (.byteGapTimeout (.control l)) s = .next s)

/-! ## Passage Unit -/

/-- READ_COMPLETION: a read AS TAKEN joins its chip's open passage or opens one at the end of the list, a read PORT
RESET is handed on as a passage of its own or discarded, a VOID read is discarded; then the held read is absent, its
credit returns, a touched passage past its deadline closes unless the clock is STOPPED, and the free unit takes again (R53,
R54, R56, R57, R58, R59, R62). That a touched passage closes before the next take is the model's reading (log entry 17),
and so is that PASSAGE_CLOSED and PASSAGE_FORCED are counted after the Crossing Unit took the crossing whole (log entry
22). -/
def Obligations.ReadCompletionHandlesRead : Prop :=
  ∀ (s : State) (h : HeldRead), s.passage.held = some h →
    (h.standing = .void →
      exec .readCompletion s = .next ((s.withHeld none).returnCredit h.port).takeReads) ∧
    (h.standing = .portReset → (s.registry.ports[h.port].point = none ∨ s.registry.course[h.point] = none) →
      exec .readCompletion s = .next ((s.withHeld none).returnCredit h.port).takeReads) ∧
    (h.standing = .portReset → s.registry.ports[h.port].point.isSome = true →
      s.registry.course[h.point].isSome = true →
      exec .readCompletion s = .next (((((s.takeCrossing
        { chip := h.chip, point := h.point, source := h.port, time := h.time, estimated := h.estimated } false).count
        .passageClosed h.port).withHeld none).returnCredit h.port).takeReads)) ∧
    (h.standing = .asTaken → ∀ x, (s.passage.lists[h.port].find? fun y => y.chip == h.chip) = some x →
      let earlier := decide (h.time < x.firstTime)
      let stronger := decide (x.peakLevel < h.level ∨ x.peakLevel = h.level ∧ h.time < x.peakTime)
      let y : Passage := { x with
        firstTime := if earlier then h.time else x.firstTime
        firstEstimated := if earlier then h.estimated else x.firstEstimated
        peakTime := if stronger then h.time else x.peakTime
        peakLevel := if stronger then h.level else x.peakLevel
        peakEstimated := if stronger then h.estimated else x.peakEstimated
        lastTaken := h.takeTime }
      (chipsOf s.passage.lists[h.port]).Nodup →
      let t := ((s.withPassages h.port (s.passage.lists[h.port].map fun z => if z.chip = h.chip then y else z)).withHeld
        none).returnCredit h.port
      exec .readCompletion s = .next
        (if s.clock.state = .running ∧ y.deadline s.registry.limits ≤ s.clock.value then t.closePassage h.port y else t).takeReads) ∧
    (h.standing = .asTaken → (s.passage.lists[h.port].find? fun y => y.chip == h.chip) = none →
      let y : Passage :=
        { chip := h.chip, firstTime := h.time, firstEstimated := h.estimated, peakTime := h.time, peakLevel := h.level,
          peakEstimated := h.estimated, firstTaken := h.takeTime, lastTaken := h.takeTime }
      (s.passage.lists[h.port].length < 128 →
        let t := ((s.withPassages h.port (s.passage.lists[h.port] ++ [y])).withHeld none).returnCredit h.port
        exec .readCompletion s = .next
          (if s.clock.state = .running ∧ y.deadline s.registry.limits ≤ s.clock.value then t.closePassage h.port y else t).takeReads) ∧
      (∀ z rest, s.passage.lists[h.port] = z :: rest → 128 ≤ s.passage.lists[h.port].length →
        let u := ((s.withPassages h.port rest).closeCrossing h.port z).count .passageForced h.port
        let t := ((u.withPassages h.port (rest ++ [y])).withHeld none).returnCredit h.port
        exec .readCompletion s = .next
          (if s.clock.state = .running ∧ y.deadline s.registry.limits ≤ s.clock.value then t.closePassage h.port y else t).takeReads))

/-- CLOSE_DEADLINE, reached while the clock runs: the passage leaves its list, its crossing is taken under the port's
point and that point's policy, and PASSAGE_CLOSED is counted (R59, R60). That it is counted after every effect of the
crossing is the model's reading (log entry 22). -/
def Obligations.CloseDeadlineHandsOnCrossing : Prop :=
  ∀ (s : State) (p : Port) (x : Passage) (q : Point) (c : CoursePoint), s.clock.state = .running →
    (s.passage.lists[p].find? fun y => y.chip == x.chip) = some x →
    (x.lastTaken + s.registry.limits.dwellGap ≤ s.clock.value ∨ x.firstTaken + s.registry.limits.maxDwell ≤ s.clock.value
      ∨ s.clock.value = 4294967295) →
    s.clock.value ≤ 4294967295 → s.registry.ports[p].point = some q → s.registry.course[q] = some c →
    (c.policy = .first → exec (.closeDeadline p x.chip) s = .next
      (((s.withPassages p (s.passage.lists[p].eraseP fun y => y.chip == x.chip)).takeCrossing
        { chip := x.chip, point := q, source := p, time := x.firstTime, estimated := x.firstEstimated } false).count
        .passageClosed p)) ∧
    (c.policy = .peak → exec (.closeDeadline p x.chip) s = .next
      (((s.withPassages p (s.passage.lists[p].eraseP fun y => y.chip == x.chip)).takeCrossing
        { chip := x.chip, point := q, source := p, time := x.peakTime, estimated := x.peakEstimated } false).count
        .passageClosed p))

/-! ## Crossing recording and the Park List -/

/-- A crossing of a known chip at a configured point where its runner has none is recorded: without a place and suspect
when a check finds a reason, else with the next place of its point (R87, R90, R96, R97, R98). A watched runner's crossing
is offered to the watch log, which sets its overflow flag when it is full (R100, R172), and a non-suspect one that is not
replayed, of a runner RUNNING or FINISHED at a point with display enable, is handed to the screens: each that takes it
builds an item and offers it to its due queue, which drops the candidate of R143 when it is full (R101, R140, R142, R143).
The order of the screens is the model's choice (log entry 32); that QUEUE_FULL comes after all counts of the hand-off is
its reading (log entry 20), and so is that an offer which is not stale always has the head considered, also one that
waits (log entry 21). -/
def Obligations.NewCrossingIsRecorded : Prop :=
  (∀ (s : State) (i : Incoming) (b : Bool) (bib : Half) (r : Runner), s.bibOf i.chip = some bib →
    s.runner bib = some r → s.registry.course[i.point].isSome = true → r.crossings[i.point] = none →
    let reason := checkReason s r i.point i.time
    let n := if s.registry.counters[i.point] < 65535 then s.registry.counters[i.point] + 1 else 65535
    let cr : Crossing :=
      { time := i.time, source := .port i.source, place := if reason = none then some n else none
        estimated := i.estimated, confirmed := false, amended := false, suspect := reason }
    let x := (r.withCrossing i.point (some cr)).derived s.registry.course
    let u : State := if reason = none then
      { s with registry := { s.registry with counters := s.registry.counters.set i.point n } } else s
    let counted := u.count (if reason = none then .crossingNew else .crossingSuspect) i.point
    let logged := ((if reason = none then counted else counted.raise .suspect).putRunner x).logCrossing x i.point cr
    let shown := reason = none ∧ b = false ∧ (x.status = .running ∨ x.status = .finished) ∧
      ∃ c, s.registry.course[i.point] = some c ∧ c.display = true
    let t := s.takeCrossing i b
    (shown → t = logged.handOff x i.point cr) ∧ (¬ shown → t = logged) ∧
    t.runner bib = some x ∧ (∀ other, other ≠ bib → t.runner other = s.runner other) ∧
    t.registry.counters = u.registry.counters ∧
    (reason.isSome = true → ∀ l, Condition.suspect ∈ (t.controlLink l).pending) ∧
    t.clock = s.clock ∧ t.intake = s.intake ∧ t.align = s.align ∧ t.passage = s.passage ∧ t.park = s.park ∧
    t.store = s.store ∧ t.registry.course = s.registry.course ∧ t.registry.chipMap = s.registry.chipMap ∧
    t.control.token = s.control.token ∧ t.control.watchList = s.control.watchList) ∧
  (∀ (s : State) (r : Runner) (p : Point) (c : Crossing),
    let entry : WatchEntry := { bib := r.bib, point := p, time := c.time
                                netSeconds := netSeconds r.crossings s.clock.guns[r.wave] c.time, suspect := c.suspect }
    let full := 64 ≤ s.control.watchLog.length
    (r.bib ∉ s.control.watchList → s.logCrossing r p c = s) ∧
    (r.bib ∈ s.control.watchList → ¬ full → s.logCrossing r p c =
      { s with control := { s.control with watchLog := s.control.watchLog ++ [entry] } }) ∧
    (r.bib ∈ s.control.watchList → full → s.control.overflow = false → s.logCrossing r p c =
      ({ s with control := { s.control with overflow := true } } : State).raise .watchOverflow) ∧
    (r.bib ∈ s.control.watchList → full → s.control.overflow = true → s.logCrossing r p c = s)) ∧
  (∀ (s : State) (r : Runner) (p : Point) (c : Crossing),
    let handed := (List.finRange 8).foldl (fun (x : State × Bool) k => match offerTo x.1 k r p c with
      | none => x
      | some o => (x.1.settleScreen k o, x.2 || o.full)) (s, false)
    (s.handOff r p c = if handed.2 = true then handed.1.raise .queueFull else handed.1) ∧
    (∀ k : ScreenNo,
      let prof := s.screens[k].profile
      let takes := prof.enabled = true ∧ prof.trigger = p ∧ r.wave ∈ prof.waves ∧
        (c.estimated = false ∨ prof.showEstimated = true)
      (¬ takes → offerTo s k r p c = none) ∧
      (∀ net fromGun place, takes → netTime r.crossings s.clock.guns[r.wave] c.time = some (net, fromGun) →
        c.place = some place →
        let seg := Machine.segment s.registry.course r.crossings p c.time
        offerTo s k r p c = some (s.screens[k].offer s.clock.value {
          bib := r.bib, name := r.name, point := p, netSeconds := net / 1000
          pace := match seg with
            | some g => pace g
            | none => none
          projected := if prof.showProjection = true then
            projection s.registry.course s.registry.limits.projectionFloor p (some net) else none
          place, priority := decide (r.bib ∈ s.control.watchList), estimated := c.estimated, fromGun
          due := dueTime c.time (travelTime prof.gap prof.defaultPace seg) prof.lead, created := s.clock.value })))) ∧
  (∀ (s : State) (k : ScreenNo) (o : ScreenOutcome),
    let counted := o.counts.foldl (fun u e => u.count e k) (s.withScreen k o.screen)
    s.settleScreen k o = if o.rises = true then counted.riseSequence k else counted) ∧
  (∀ (x : Screen) (now : Nat) (item : DisplayItem),
    let same := fun y : DisplayItem => y.bib = item.bib ∧ y.point = item.point
    let lines := x.lines.map fun y => match y with
      | some z => if same z.item then none else some z
      | none => none
    let queued := enqueue item (x.queue.filter fun y => ¬ same y)
    let head := considerHead x.profile now queued.1 lines
    (item.due + x.profile.stale < now →
      x.offer now item = { screen := x, counts := [.itemStale], rises := false, full := false }) ∧
    (now ≤ item.due + x.profile.stale → x.offer now item = {
      screen := { x with queue := head.queue, lines := head.lines, waiting := head.waiting }
      counts := queued.2 ++ head.counts, rises := decide (lines ≠ x.lines) || head.changed
      full := decide (TallyClass.itemDropped ∈ queued.2) })) ∧
  (∀ (x : DisplayItem) (queue : List DisplayItem), queue.Pairwise (fun y z => y.due ≤ z.due) →
    let eligible := fun y : DisplayItem => (x.priority = true ∧ ∀ z ∈ queue, z.priority = true) ∨ y.priority = false
    (∃ front back, queue = front ++ back ∧ insertDue x queue = front ++ x :: back ∧ (∀ y ∈ front, y.due ≤ x.due) ∧
      ∀ y ∈ back, x.due < y.due) ∧
    (queue.length < 64 → enqueue x queue = (insertDue x queue, [.itemQueued])) ∧
    (64 ≤ queue.length → eligible x → (∀ y ∈ queue, eligible y → y.due ≤ x.due) →
      enqueue x queue = (queue, [.itemDropped])) ∧
    (∀ front y back, 64 ≤ queue.length → queue = front ++ y :: back → eligible y →
      (∀ z ∈ front, eligible z → z.due ≤ y.due) → (∀ z ∈ back, eligible z → z.due < y.due) →
      (eligible x → x.due < y.due) →
      enqueue x queue = (insertDue x (front ++ back), [.itemDropped, .itemQueued])))

/-- The checks find EARLY before ORDER before FAST, against the nearest lower and higher non-suspect crossings (R95,
R96). -/
def Obligations.ChecksFindHighestReason : Prop :=
  ∀ (s : State) (r : Runner) (p : Point) (t : Nat),
    (checkReason s r p t = some .early ↔ ∀ g, s.clock.guns[r.wave] = some g → t < g) ∧
    (checkReason s r p t = some .order ↔ (∃ g, s.clock.guns[r.wave] = some g ∧ g ≤ t) ∧
      ((∃ q c, nearestLower r.crossings p = some (q, c) ∧ t ≤ c.time) ∨
        (∃ q c, nearestHigher r.crossings p = some (q, c) ∧ c.time ≤ t))) ∧
    (checkReason s r p t = some .fast ↔ (∃ g, s.clock.guns[r.wave] = some g ∧ g ≤ t) ∧
      (∀ q c, nearestLower r.crossings p = some (q, c) → c.time < t) ∧
      (∀ q c, nearestHigher r.crossings p = some (q, c) → t < c.time) ∧
      ∃ q c x y, nearestLower r.crossings p = some (q, c) ∧ s.registry.course[p] = some x ∧
        s.registry.course[q] = some y ∧ t < c.time + (x.distance - y.distance) * s.registry.limits.minPace) ∧
    (∀ q c, nearestLower r.crossings p = some (q, c) ↔
      q < p ∧ r.crossings[q] = some c ∧ c.suspect = none ∧
      ∀ q' : Point, q < q' → q' < p → ∀ c', r.crossings[q'] = some c' → c'.suspect.isSome = true) ∧
    (∀ q c, nearestHigher r.crossings p = some (q, c) ↔
      p < q ∧ r.crossings[q] = some c ∧ c.suspect = none ∧
      ∀ q' : Point, p < q' → q' < q → ∀ c', r.crossings[q'] = some c' → c'.suspect.isSome = true)

/-- A crossing of a known chip at a point that is not configured is set aside and counted as a repeat (R87). A crossing
where its runner has one already: of lower quality, or of equal quality without confirming, it is counted as a repeat and
changes nothing else; one that confirms at the same or a later time sets CONFIRMED alone; one that confirms at an earlier
time, and one of higher quality, takes the recorded one's time and source and is judged again, with a place only when the
record had none and no check finds a reason. A replacement counts no CROSSING_NEW, a confirmation CROSSING_CONFIRMED, and
a reason found CROSSING_SUSPECT with SUSPECT raised; no other runner, no watch log and no screen changes (R89, R91, R92,
R93, R94, R96, R97, R98). That CROSSING_SUSPECT comes before CROSSING_CONFIRMED, and SUSPECT after both, is the model's
reading (log entry 20). -/
def Obligations.SecondCrossingsAreJudged : Prop :=
  (∀ (s : State) (i : Incoming) (b : Bool) (bib : Half) (r : Runner), s.bibOf i.chip = some bib →
    s.runner bib = some r → s.registry.course[i.point] = none → s.takeCrossing i b = s.count .crossingRepeat i.point) ∧
  (∀ (s : State) (i : Incoming) (b : Bool) (bib : Half) (r : Runner) (old : Crossing), s.bibOf i.chip = some bib →
    s.runner bib = some r → s.registry.course[i.point].isSome = true → r.crossings[i.point] = some old →
    let w := s.registry.limits.confirmWindow
    (old.amended = true ∨ old.estimated = false ∧ i.estimated = true →
      s.takeCrossing i b = s.count .crossingRepeat i.point) ∧
    (old.amended = false → old.estimated = i.estimated →
      (old.source = .port i.source ∨ old.time + w < i.time ∨ i.time + w < old.time) →
      s.takeCrossing i b = s.count .crossingRepeat i.point) ∧
    (old.amended = false → old.estimated = i.estimated → old.source ≠ .port i.source → old.time ≤ i.time →
      i.time ≤ old.time + w →
      s.takeCrossing i b = (s.putRunner ((r.withCrossing i.point (some { old with confirmed := true })).derived
        s.registry.course)).count .crossingConfirmed i.point) ∧
    (old.amended = false →
      (old.estimated = true ∧ i.estimated = false ∨
        old.estimated = i.estimated ∧ old.source ≠ .port i.source ∧ i.time < old.time ∧ old.time ≤ i.time + w) →
      let reason := checkReason s r i.point i.time
      let n := if s.registry.counters[i.point] < 65535 then s.registry.counters[i.point] + 1 else 65535
      let taken : Crossing := { old with
        time := i.time, source := .port i.source, estimated := i.estimated
        confirmed := decide (old.estimated = i.estimated), suspect := reason
        place := if reason = none then some (old.place.getD n) else old.place }
      let x := (r.withCrossing i.point (some taken)).derived s.registry.course
      let placed : State := if reason = none ∧ old.place = none then
        { s with registry := { s.registry with counters := s.registry.counters.set i.point n } } else s
      let u := placed.putRunner x
      let t := s.takeCrossing i b
      (old.estimated ≠ i.estimated → reason = none → t = u) ∧
      (old.estimated ≠ i.estimated → reason ≠ none → t = (u.count .crossingSuspect i.point).raise .suspect) ∧
      (old.estimated = i.estimated → reason = none → t = u.count .crossingConfirmed i.point) ∧
      (old.estimated = i.estimated → reason ≠ none →
        t = ((u.count .crossingSuspect i.point).count .crossingConfirmed i.point).raise .suspect) ∧
      t.runner bib = some x ∧ (∀ other, other ≠ bib → t.runner other = s.runner other) ∧
      t.registry.counters = placed.registry.counters ∧
      (reason ≠ none → ∀ l, Condition.suspect ∈ (t.controlLink l).pending) ∧
      t.control.watchLog = s.control.watchLog ∧ t.screens = s.screens ∧ t.park = s.park ∧ t.sent = s.sent))

/-- A crossing of a chip that is not in the chip map is parked: merged into the chip's entry, or in a new entry at the
end of the list, for which a full list first loses its entry of the oldest last-update (R127, R128, R129). That both
counts of a full list come before both raises is the model's reading (log entry 20); that the oldest last-update is the
least race time, also where a START CLOCK set the clock back, is its choice (log entry 36). -/
def Obligations.UnknownChipIsParked : Prop :=
  ∀ (s : State) (i : Incoming) (b : Bool), s.bibOf i.chip = none →
    let x : ParkedCrossing := { time := i.time, source := i.source, estimated := i.estimated }
    let fresh : ParkEntry :=
      { chip := i.chip, parkedAt := s.clock.value, lastUpdate := s.clock.value
        crossings := (Vector.replicate 10 none).set i.point (some x) }
    ((∃ e ∈ s.park, e.chip = i.chip) →
      s.takeCrossing i b = { s with park := s.park.map fun e => if e.chip = i.chip then { e with
        lastUpdate := s.clock.value
        crossings := e.crossings.set i.point (some (match e.crossings[i.point] with
          | none => x
          | some old => if (old.estimated = true ∧ x.estimated = false) ∨
              (old.estimated = x.estimated ∧ x.time < old.time) then x else old)) } else e }) ∧
    ((∀ e ∈ s.park, e.chip ≠ i.chip) → s.park.length < 64 →
      s.takeCrossing i b = (({ s with park := s.park ++ [fresh] }).count .chipParked i.point).raise .unknownChip) ∧
    ((∀ e ∈ s.park, e.chip ≠ i.chip) → 64 ≤ s.park.length → ∀ front e back, s.park = front ++ e :: back →
      (∀ f ∈ front, e.lastUpdate < f.lastUpdate) → (∀ f ∈ back, e.lastUpdate ≤ f.lastUpdate) →
      s.takeCrossing i b = (((({ s with park := front ++ back ++ [fresh] }).count .parkDropped i.point).count .chipParked
        i.point).raise .parkFull).raise .unknownChip)

/-! ## Split Arithmetic -/

/-- The figures of a split are computed as their rules say. The net time runs from a usable start crossing, or from the
gun with FROM_GUN (R114, R115); the segment runs from the nearest lower crossing (R116); the projected finish is scaled to
the finish, rounded half up and cut off at 24 hours (R118, R119); the travel follows the segment, or the default pace
without one (R120). Three more are rounded. The measured rate is (ΔT − ΔD) × 1,000,000 / ΔD rounded half away
from zero, over a span of 30,000 ms or more with a positive ΔD, and absent otherwise (R40); the pace is the nearest
whole number of seconds per kilometre, halves going up, and absent above 3,599 (R117); the due time is the crossing's
time plus the travel less the lead, never before the crossing and at most 4,294,967,295 (R121). -/
def Obligations.RatePaceAndDueTimeAreExact : Prop :=
  (∀ x y : SyncRecord,
     let dT : Int := (y.pulse : Int) - x.pulse
     let dD : Int := (y.dtime - x.dtime).toInt
     (dT < 30000 ∨ dD ≤ 0 → measuredRate x y = none) ∧
     (30000 ≤ dT → 0 < dD → ∃ v, measuredRate x y = some v ∧
       2 * |v * dD - (dT - dD) * 1000000| ≤ dD ∧
       (2 * |v * dD - (dT - dD) * 1000000| = dD → |(dT - dD) * 1000000| < |v * dD|))) ∧
  (∀ g : Segment, 0 < g.distance →
     (∀ v, pace g = some v → v ≤ 3599 ∧ 2 * g.time < (2 * v + 1) * g.distance ∧
       2 * v * g.distance ≤ 2 * g.time + g.distance) ∧
     (pace g = none → 7199 * g.distance ≤ 2 * g.time)) ∧
  (∀ t travel lead : Nat, t ≤ 4294967295 →
     (travel < lead → dueTime t travel lead = t) ∧
     (lead ≤ travel → dueTime t travel lead = min (t + (travel - lead)) 4294967295) ∧
     t ≤ dueTime t travel lead ∧ dueTime t travel lead ≤ 4294967295) ∧
  (∀ (cs : Crossings) (gun : Option Nat) (t n : Nat),
     (netTime cs gun t = some (n, false) ↔
       ∃ c, cs[(0 : Point)] = some c ∧ c.suspect = none ∧ c.time ≤ t ∧ n = t - c.time) ∧
     (netTime cs gun t = some (n, true) ↔
       (∀ c, cs[(0 : Point)] = some c → c.suspect = none → t < c.time) ∧ ∃ g, gun = some g ∧ g ≤ t ∧ n = t - g) ∧
     netSeconds cs gun t = (netTime cs gun t).map fun x => x.1 / 1000) ∧
  (∀ (course : Course) (cs : Crossings) (p : Point) (t : Nat) (g : Segment),
     Machine.segment course cs p t = some g ↔ ∃ q c x y, nearestLower cs p = some (q, c) ∧ course[p] = some x ∧
       course[q] = some y ∧ c.time < t ∧ g = { lower := q, time := t - c.time, distance := x.distance - y.distance }) ∧
  (∀ (course : Course) (floor : Nat) (p : Point) (net : Option Nat) (v : Nat),
     projection course floor p net = some v ↔ ∃ n x finish goal, net = some n ∧ course[p] = some x ∧
       course[finish] = some goal ∧ (∀ q : Point, finish < q → course[q] = none) ∧ floor ≤ x.distance ∧ p ≠ finish ∧
       (n * goal.distance + x.distance / 2) / x.distance < 86400000 ∧
       v = (n * goal.distance + x.distance / 2) / x.distance / 1000) ∧
  (∀ (gap defaultPace : Nat) (g : Segment), travelTime gap defaultPace (some g) = gap * g.time / g.distance ∧
     travelTime gap defaultPace none = gap * defaultPace)

/-! ## Display Scheduler -/

/-- A due head takes the lowest empty line at its deadline, and an expired line becomes empty or, in the same event, goes
to a waiting or due head; either way the frame sequence rises once, which answers a held request with FRAME (R144, R145,
R148, R150, R153). The head is considered by the tests of R145 and R146 in their order. The first two clauses take the
items behind the head as not yet due, so that the consideration ends. -/
def Obligations.LinesFillAndExpire : Prop :=
  (∀ (s : State) (k : ScreenNo) (x : DisplayItem) (rest : List DisplayItem) (i : Nat), s.clock.state = .running →
    s.screens[k].waiting = false → s.screens[k].queue = x :: rest → x.due ≤ s.clock.value →
    s.clock.value ≤ x.due + s.screens[k].profile.stale → s.screens[k].lines[i]? = some none →
    (∀ j, j < i → s.screens[k].lines[j]? ≠ some none) → (∀ y ∈ rest.head?, s.clock.value < y.due) →
    exec (.dueDeadline k) s = .next (((s.withScreen k { s.screens[k] with
      queue := rest
      lines := s.screens[k].lines.set i (some { item := x, shownAt := s.clock.value
                                                expiry := min (s.clock.value + s.screens[k].profile.hold) 4294967295 })
      }).count .itemShown k).riseSequence k)) ∧
  (∀ (s : State) (k : ScreenNo) (i : Fin 4) (y : ShownItem), s.clock.state = .running →
    s.screens[k].lines[i.val]? = some (some y) → y.expiry ≤ s.clock.value →
    (∀ z ∈ s.screens[k].queue.head?, s.clock.value < z.due) →
    exec (.lineExpiry k i) s = .next ((s.withScreen k { s.screens[k] with
      lines := s.screens[k].lines.set i.val none, waiting := false }).riseSequence k)) ∧
  (∀ (s : State) (k : ScreenNo) (i : Fin 4) (y : ShownItem) (x : DisplayItem) (rest : List DisplayItem),
    s.clock.state = .running → s.screens[k].lines[i.val]? = some (some y) → y.expiry ≤ s.clock.value →
    s.screens[k].queue = x :: rest → x.due ≤ s.clock.value → s.clock.value ≤ x.due + s.screens[k].profile.stale →
    (∀ j, j < i.val → s.screens[k].lines[j]? ≠ some none) →
    let taken := fun waits : Bool => ((s.withScreen k { s.screens[k] with
      queue := rest, waiting := waits
      lines := s.screens[k].lines.set i.val (some { item := x, shownAt := s.clock.value
                                                    expiry := min (s.clock.value + s.screens[k].profile.hold) 4294967295 })
      }).count .itemShown k).riseSequence k
    ((∀ z ∈ rest.head?, s.clock.value < z.due) → exec (.lineExpiry k i) s = .next (taken false)) ∧
    (∀ z, rest.head? = some z → z.due ≤ s.clock.value → s.clock.value ≤ z.due + s.screens[k].profile.stale →
      z.priority = false → (∀ y ∈ s.screens[k].lines, y.isSome = true) →
      exec (.lineExpiry k i) s = .next (taken true))) ∧
  (∀ (s : State) (k : ScreenNo) (i : Fin 4) (y : ShownItem), s.clock.state = .running →
    s.screens[k].lines[i.val]? = some (some y) → y.expiry ≤ s.clock.value →
    let r := considerHead s.screens[k].profile s.clock.value s.screens[k].queue (s.screens[k].lines.set i.val none)
    exec (.lineExpiry k i) s = .next ((r.counts.foldl (fun u e => u.count e k) (s.withScreen k { s.screens[k] with
      queue := r.queue, lines := r.lines, waiting := r.waiting })).riseSequence k)) ∧
  (∀ (prof : Profile) (now : Nat) (x : DisplayItem) (rest : List DisplayItem) (lines : List (Option ShownItem)),
    let shown := fun i : Nat =>
      let r := considerHead prof now rest
        (lines.set i (some { item := x, shownAt := now, expiry := min (now + prof.hold) 4294967295 }))
      { r with counts := .itemShown :: r.counts, changed := true }
    let due := x.due ≤ now ∧ now ≤ x.due + prof.stale
    let occupied := ∀ y ∈ lines, y.isSome = true
    considerHead prof now [] lines = { queue := [], lines, waiting := false, counts := [], changed := false } ∧
    (now < x.due → considerHead prof now (x :: rest) lines =
      { queue := x :: rest, lines, waiting := false, counts := [], changed := false }) ∧
    (x.due + prof.stale < now → considerHead prof now (x :: rest) lines =
      { considerHead prof now rest lines with counts := .itemStale :: (considerHead prof now rest lines).counts }) ∧
    (∀ i, due → lines[i]? = some none → (∀ j, j < i → lines[j]? ≠ some none) →
      considerHead prof now (x :: rest) lines = shown i) ∧
    (∀ (i : Nat) (z : ShownItem), due → occupied → x.priority = true → lines[i]? = some (some z) →
      z.item.priority = false →
      (∀ (j : Nat) (y : ShownItem), lines[j]? = some (some y) → y.item.priority = false →
        z.shownAt ≤ y.shownAt ∧ (j < i → z.shownAt < y.shownAt)) →
      considerHead prof now (x :: rest) lines = shown i) ∧
    (due → occupied → (x.priority = false ∨ ∀ y ∈ lines, ∀ z, y = some z → z.item.priority = true) →
      considerHead prof now (x :: rest) lines =
        { queue := x :: rest, lines, waiting := true, counts := [], changed := false })) ∧
  (∀ (s : State) (k : ScreenNo), s.screens[k].held = none →
    s.riseSequence k = s.withScreen k { s.screens[k] with seq := s.screens[k].seq + 1 }) ∧
  (∀ (s : State) (k : ScreenNo), s.screens[k].held.isSome = true →
    s.riseSequence k = (s.withScreen k { s.screens[k] with seq := s.screens[k].seq + 1, held := none }).transmit
      (.frame k (s.screens[k].seq + 1) (s.screens[k].lines.map fun y => y.map fun z => z.item.record)))

/-- A head that is due and finds every line occupied takes the place of the non-priority item shown earliest when it has
PRIORITY, and waits otherwise (R146); a stale head leaves the queue with ITEM_STALE, and the next is considered (R145).
-/
def Obligations.HeadPreemptsOrWaits : Prop :=
  (∀ (s : State) (k : ScreenNo) (x : DisplayItem) (rest : List DisplayItem), s.clock.state = .running →
     s.screens[k].waiting = false → s.screens[k].queue = x :: rest → x.due ≤ s.clock.value →
     s.clock.value ≤ x.due + s.screens[k].profile.stale → (∀ y ∈ s.screens[k].lines, y.isSome = true) →
     (x.priority = false ∨ (∀ y ∈ s.screens[k].lines, ∀ z, y = some z → z.item.priority = true) →
       exec (.dueDeadline k) s = .next (s.withScreen k { s.screens[k] with waiting := true })) ∧
     (x.priority = true → ∀ (i : Nat) (z : ShownItem), s.screens[k].lines[i]? = some (some z) →
       z.item.priority = false →
       (∀ (j : Nat) (y : ShownItem), s.screens[k].lines[j]? = some (some y) → y.item.priority = false →
         z.shownAt ≤ y.shownAt ∧ (j < i → z.shownAt < y.shownAt)) →
       (∀ y ∈ rest.head?, s.clock.value < y.due) →
       exec (.dueDeadline k) s = .next (((s.withScreen k { s.screens[k] with
         queue := rest
         lines := s.screens[k].lines.set i (some { item := x, shownAt := s.clock.value
                                                   expiry := min (s.clock.value + s.screens[k].profile.hold) 4294967295 })
         }).count .itemShown k).riseSequence k))) ∧
  (∀ (s : State) (k : ScreenNo) (x : DisplayItem) (rest : List DisplayItem), s.clock.state = .running →
    s.screens[k].waiting = false → s.screens[k].queue = x :: rest →
    x.due + s.screens[k].profile.stale < s.clock.value →
    exec (.dueDeadline k) s =
      exec (.dueDeadline k) ((s.withScreen k { s.screens[k] with queue := rest }).count .itemStale k))

/-- SCREEN_HELLO brings the link UP with a fresh session and drops a held request; a hold deadline that is reached
answers the held request with UNCHANGED (R151, R153). -/
def Obligations.ScreenHelloAndHold : Prop :=
  (∀ (s : State) (k : ScreenNo), s.startUp = false →
    exec (.screenHello k) s = .next (s.withScreen k { s.screens[k] with
      link := .up, session := .fresh, held := none, timer := some (s.elapsed + 15000) })) ∧
  (∀ (s : State) (k : ScreenNo) (h : HeldRequest), s.screens[k].held = some h → h.deadline ≤ s.elapsed →
    exec (.holdDeadline k) s = .next ((s.withScreen k { s.screens[k] with held := none }).transmit
      (.unchanged k s.screens[k].seq)))

/-- FRAME_REQUEST: dropped on a DOWN link; on an UP link it restarts the timer, a request held before is answered with
UNCHANGED, and the request is answered with FRAME in a fresh session or against another sequence, with UNCHANGED when it
does not wait, and is held otherwise (R151, R152). -/
def Obligations.FrameRequestIsAnswered : Prop :=
  ∀ (s : State) (k : ScreenNo) (last : Half) (wait : Bool), s.startUp = false →
    let x := s.screens[k]
    let heard : Screen := { x with timer := some (s.elapsed + 15000), held := none }
    let first := if x.held.isSome then s.sent ++ [Sent.unchanged k x.seq] else s.sent
    let frame := Sent.frame k x.seq (x.lines.map fun y => y.map fun z => z.item.record)
    (x.link = .down → exec (.frameRequest k last wait) s = .next s) ∧
    (x.link = .up → x.session = .fresh →
      exec (.frameRequest k last wait) s = .next { s with
        screens := s.screens.set k { heard with session := .answered }, sent := first ++ [frame] }) ∧
    (x.link = .up → x.session = .answered → last ≠ x.seq →
      exec (.frameRequest k last wait) s = .next { s with
        screens := s.screens.set k heard, sent := first ++ [frame] }) ∧
    (x.link = .up → x.session = .answered → last = x.seq → (wait = false ∨ x.profile.pollHold = 0) →
      exec (.frameRequest k last wait) s = .next { s with
        screens := s.screens.set k heard, sent := first ++ [Sent.unchanged k x.seq] }) ∧
    (x.link = .up → x.session = .answered → last = x.seq → wait = true → x.profile.pollHold ≠ 0 →
      exec (.frameRequest k last wait) s = .next { s with
        screens := s.screens.set k { heard with held := some { last, deadline := s.elapsed + x.profile.pollHold } }
        sent := first })

/-- SET PROFILE replaces the profile, empties the queue and the lines and raises the frame sequence, which answers a held
request; a screen number or a profile field out of range is refused with RANGE (R138, R150). The wave set kept in rising
order is the model's form of the set (log entry 18). -/
def Obligations.SetProfileEmptiesScreen : Prop :=
  (∀ (s : State) (l : Side) (tag screen : Byte) (a : ProfileArgs) (k : ScreenNo) (trigger : Point) (waves : List Wave),
    s.inCharge l → screen.toNat = k.val → a.trigger.toNat = trigger.val →
    (a.gap.toNat ≤ 2000 ∧ a.lead.toNat ≤ 10000 ∧ 1 ≤ a.lines.toNat ∧ a.lines.toNat ≤ 4) →
    (∀ v ∈ a.defaultPace, 150 ≤ v.toNat ∧ v.toNat ≤ 600) → (∀ v ∈ a.hold, 1000 ≤ v.toNat ∧ v.toNat ≤ 15000) →
    (∀ v ∈ a.stale, v.toNat ≤ 30000) → (∀ v ∈ a.pollHold, v.toNat ≤ 10000) → (∀ b ∈ a.waves, b.toNat ≤ 15) →
    waves = (List.finRange 16).filter (fun w => a.waves.any fun b => b.toNat == w.val) →
    let profile : Profile :=
      { enabled := a.enabled.getD false, trigger, gap := a.gap.toNat, lead := a.lead.toNat
        defaultPace := (a.defaultPace.map fun v => v.toNat).getD 360, lines := a.lines.toNat
        hold := (a.hold.map fun v => v.toNat).getD 4000, stale := (a.stale.map fun v => v.toNat).getD 5000, waves
        showEstimated := a.showEstimated, showProjection := a.showProjection
        pollHold := (a.pollHold.map fun v => v.toNat).getD 2000 }
    exec (.setProfile l tag screen a) s = .next ((((s.hearControl l).withScreen k { s.screens[k] with
      profile, queue := [], lines := List.replicate a.lines.toNat none, waiting := false }).riseSequence k).respond l tag
      .ok .nothing)) ∧
  (∀ (s : State) (l : Side) (tag screen : Byte) (a : ProfileArgs), s.inCharge l →
    (7 < screen.toNat ∨ 9 < a.trigger.toNat ∨ 2000 < a.gap.toNat ∨ 10000 < a.lead.toNat ∨ a.lines.toNat = 0 ∨
      4 < a.lines.toNat ∨ (∃ v ∈ a.defaultPace, v.toNat < 150 ∨ 600 < v.toNat) ∨
      (∃ v ∈ a.hold, v.toNat < 1000 ∨ 15000 < v.toNat) ∨ (∃ v ∈ a.stale, 30000 < v.toNat) ∨
      (∃ v ∈ a.pollHold, 10000 < v.toNat) ∨ ∃ b ∈ a.waves, 15 < b.toNat) →
    exec (.setProfile l tag screen a) s = .next ((s.hearControl l).respond l tag .range .nothing))

/-! ## Control links, the token and conditions -/

/-- CONTROL_SILENCE_DEADLINE takes an UP link DOWN and raises LINK_DOWN; the token of its holder goes to the pending
claimant or becomes FREE with TOKEN_LOST for the holder, and a pending claim of the link ends (R160, R167). -/
def Obligations.ControlSilenceReleasesToken : Prop :=
  ∀ (s : State) (l : Side) (dl : Nat), (s.controlLink l).link = .up → (s.controlLink l).timer = some dl →
    dl ≤ s.elapsed →
    let down := (s.withLink l { s.controlLink l with link := .down, timer := none }).raise .linkDown
    (s.control.token = .held l → s.control.claim = some l.other →
      exec (.controlSilenceDeadline l) s = .next (((down.withControl { down.control with
        token := .held l.other, claim := none }).raiseTo l.other .tokenGranted).raiseTo l .tokenLost)) ∧
    (s.control.token = .held l → s.control.claim ≠ some l.other →
      exec (.controlSilenceDeadline l) s = .next ((down.withControl { down.control with token := .free }).raiseTo l
        .tokenLost)) ∧
    (s.control.token ≠ .held l → s.control.claim = some l →
      exec (.controlSilenceDeadline l) s = .next (down.withControl { down.control with claim := none })) ∧
    (s.control.token ≠ .held l → s.control.claim ≠ some l → exec (.controlSilenceDeadline l) s = .next down)

/-- CLAIM takes a FREE token, changes nothing for the holder, and otherwise records the claim and raises CLAIM_PENDING to
the holder (R163). SEIZE is refused with NOT_PERMITTED on link B; on link A it takes the token at once, with TOKEN_LOST
for link B when B held it, and a pending claim of link A ends then (R164). -/
def Obligations.ClaimAndSeizeTakeToken : Prop :=
  (∀ (s : State) (l : Side) (tag : Byte), s.ready l →
     let t := s.hearControl l
     (s.control.token = .free → exec (.claim l tag) s =
       .next ((t.withControl { t.control with token := .held l }).respond l tag .ok .nothing)) ∧
     (s.control.token = .held l → exec (.claim l tag) s = .next (t.respond l tag .ok .nothing)) ∧
     (s.control.token = .held l.other → exec (.claim l tag) s =
       .next (((t.withControl { t.control with claim := some l }).raiseTo l.other .claimPending).respond l tag .pending
         .nothing))) ∧
  (∀ (s : State) (tag : Byte), s.ready .b →
    exec (.seize .b tag) s = .next ((s.hearControl .b).respond .b tag .notPermitted .nothing)) ∧
  (∀ (s : State) (tag : Byte), s.ready .a →
    let t := s.hearControl .a
    (s.control.token = .free → exec (.seize .a tag) s =
      .next ((t.withControl { t.control with token := .held .a }).respond .a tag .ok .nothing)) ∧
    (s.control.token = .held .a → exec (.seize .a tag) s = .next (t.respond .a tag .ok .nothing)) ∧
    (s.control.token = .held .b → exec (.seize .a tag) s =
      .next (((t.withControl { t.control with
        token := .held .a
        claim := if s.control.claim = some .a then none else s.control.claim }).raiseTo .b .tokenLost).respond .a tag
        .ok .nothing)))

/-- RELEASE gives the holder's token to the pending claimant with TOKEN_GRANTED, or frees it; it ends the sender's own
claim when the sender is not the holder; else it is refused with STATE (R165). PASS hands the holder's token to the other
link while that link is UP, with TOKEN_GRANTED, and ends its pending claim; from another link, or to a DOWN link, it is
refused with STATE (R166). -/
def Obligations.ReleaseAndPassGiveToken : Prop :=
  (∀ (s : State) (l : Side) (tag : Byte), s.ready l →
     let t := s.hearControl l
     (s.control.token = .held l → s.control.claim = some l.other → exec (.release l tag) s =
       .next (((t.withControl { t.control with token := .held l.other, claim := none }).raiseTo l.other
         .tokenGranted).respond l tag .ok .nothing)) ∧
     (s.control.token = .held l → s.control.claim ≠ some l.other → exec (.release l tag) s =
       .next ((t.withControl { t.control with token := .free }).respond l tag .ok .nothing)) ∧
     (s.control.token ≠ .held l → s.control.claim = some l → exec (.release l tag) s =
       .next ((t.withControl { t.control with claim := none }).respond l tag .ok .nothing)) ∧
     (s.control.token ≠ .held l → s.control.claim ≠ some l → exec (.release l tag) s =
       .next (t.respond l tag .state .nothing))) ∧
  (∀ (s : State) (l : Side) (tag : Byte), s.ready l →
     let t := s.hearControl l
     (s.control.token = .held l → (s.controlLink l.other).link = .up →
       exec (.pass l tag) s = .next (((t.withControl { t.control with
         token := .held l.other
         claim := if s.control.claim = some l.other then none else s.control.claim }).raiseTo l.other
         .tokenGranted).respond l tag .ok .nothing)) ∧
     (s.control.token ≠ .held l ∨ (s.controlLink l.other).link = .down →
       exec (.pass l tag) s = .next (t.respond l tag .state .nothing)))

/-- ACK CONDITIONS takes the given conditions out of the sender's pending set and SET MASK replaces the sender's mask, by
their numbers 1 to 18; a number out of range is refused with RANGE; READ CONDITIONS answers both sets and the ATTN level,
which is high exactly while a pending condition is not masked; a kind that is unknown is answered RANGE (R161, R169,
R170, R190). The sets kept in the order of the table of R168 are the model's form of them (log entry 18). -/
def Obligations.ConditionCommands : Prop :=
  (∀ (s : State) (l : Side) (tag : Byte) (conds : List Byte), s.ready l →
    (∀ b ∈ conds, 1 ≤ b.toNat ∧ b.toNat ≤ 18) →
    let given := fun c : Condition => ∃ b ∈ conds, Condition.all[b.toNat - 1]? = some c
    let x := { s.controlLink l with link := LinkState.up, timer := some (s.elapsed + 10000) }
    (∃ left : CondSet, (∀ c, c ∈ left ↔ c ∈ (s.controlLink l).pending ∧ ¬ given c) ∧
      List.Sublist left (s.controlLink l).pending ∧
      exec (.ackConditions l tag conds) s =
        .next ((s.withLink l { x with pending := left }).respond l tag .ok .nothing)) ∧
    (∃ mask : CondSet, (∀ c, c ∈ mask ↔ given c) ∧ List.Sublist mask Condition.all ∧
      exec (.setMask l tag conds) s = .next ((s.withLink l { x with mask := mask }).respond l tag .ok .nothing))) ∧
  (∀ (s : State) (l : Side) (tag : Byte) (conds : List Byte), s.ready l →
    (∃ b ∈ conds, b.toNat = 0 ∨ 18 < b.toNat) →
    exec (.ackConditions l tag conds) s = .next ((s.hearControl l).respond l tag .range .nothing) ∧
    exec (.setMask l tag conds) s = .next ((s.hearControl l).respond l tag .range .nothing)) ∧
  (∀ (s : State) (l : Side) (tag : Byte), s.ready l →
    exec (.readConditions l tag) s = .next ((s.hearControl l).respond l tag .ok
      (.conditions (s.controlLink l).pending (s.controlLink l).mask (s.attn l)))) ∧
  (∀ (s : State) (l : Side), s.attn l = true ↔ ∃ c ∈ (s.controlLink l).pending, c ∉ (s.controlLink l).mask) ∧
  (∀ (s : State) (l : Side) (tag : Byte), s.ready l →
    exec (.unknownKind l tag) s = .next ((s.hearControl l).respond l tag .range .nothing))

/-- SET WATCH replaces the watch list by up to 16 bibs, none 0 and none twice, and READ WATCH LOG removes and answers up
to n of the oldest entries with the overflow flag, which it clears (R171, R173). The list in the order given is the
model's form of the set (log entry 18). -/
def Obligations.WatchCommands : Prop :=
  (∀ (s : State) (l : Side) (tag : Byte) (bibs : List Half), s.inCharge l →
    (bibs.length ≤ 16 → 0 ∉ bibs → bibs.Nodup → exec (.setWatch l tag bibs) s =
      .next (((s.hearControl l).withControl { (s.hearControl l).control with watchList := bibs }).respond l tag .ok
        .nothing)) ∧
    (16 < bibs.length ∨ 0 ∈ bibs → exec (.setWatch l tag bibs) s =
      .next ((s.hearControl l).respond l tag .range .nothing)) ∧
    (bibs.length ≤ 16 → 0 ∉ bibs → ¬ bibs.Nodup → exec (.setWatch l tag bibs) s =
      .next ((s.hearControl l).respond l tag .duplicate .nothing))) ∧
  (∀ (s : State) (l : Side) (tag n : Byte), s.ready l →
    (1 ≤ n.toNat → n.toNat ≤ 16 → exec (.readWatchLog l tag n) s =
      .next (((s.hearControl l).withControl { (s.hearControl l).control with
        watchLog := s.control.watchLog.drop n.toNat, overflow := false }).respond l tag .ok
        (.watchLog (s.control.watchLog.take n.toNat) s.control.overflow))) ∧
    (n.toNat = 0 ∨ 16 < n.toNat → exec (.readWatchLog l tag n) s =
      .next ((s.hearControl l).respond l tag .range .nothing)))

/-- The queries are answered OK with the state as it stands and change nothing; a number out of range is refused with
RANGE, an unregistered bib with UNKNOWN (R32, R82, R134, R156, R174, R180). -/
def Obligations.QueriesOnlyAnswer : Prop :=
  ∀ (s : State) (l : Side) (tag : Byte), s.ready l →
    let t := s.hearControl l
    (exec (.status l tag) s = .next (t.respond l tag .ok (.status (statusReport t)))) ∧
    (exec (.readTallies l tag) s = .next (t.respond l tag .ok (.tallies s.tally))) ∧
    (∀ (port : Byte) (p : Port), port.toNat = p.val →
      exec (.readPort l tag port) s = .next (t.respond l tag .ok (.port (portReport s p)))) ∧
    (∀ port : Byte, 11 < port.toNat → exec (.readPort l tag port) s = .next (t.respond l tag .range .nothing)) ∧
    (∀ (screen : Byte) (k : ScreenNo), screen.toNat = k.val →
      exec (.readScreen l tag screen) s = .next (t.respond l tag .ok (.screen s.screens[k].report))) ∧
    (∀ screen : Byte, 7 < screen.toNat →
      exec (.readScreen l tag screen) s = .next (t.respond l tag .range .nothing)) ∧
    (exec (.readParkList l tag none) s =
      .next (t.respond l tag .ok (.parkList s.park.length (s.park.take 8)))) ∧
    (∀ start : Byte, start.toNat ≤ 63 → exec (.readParkList l tag (some start)) s =
      .next (t.respond l tag .ok (.parkList s.park.length ((s.park.drop start.toNat).take 8)))) ∧
    (∀ start : Byte, 63 < start.toNat → exec (.readParkList l tag (some start)) s =
      .next (t.respond l tag .range .nothing)) ∧
    (∀ (bib : Half) (r : Runner), s.registry.state = .ready → bib ≠ 0 → s.runner bib = some r →
      exec (.readRunner l tag bib) s = .next (t.respond l tag .ok (.runner (runnerReport s r)))) ∧
    (s.registry.state = .ready → exec (.readRunner l tag 0) s = .next (t.respond l tag .range .nothing)) ∧
    (∀ bib : Half, s.registry.state = .ready → bib ≠ 0 → s.runner bib = none →
      exec (.readRunner l tag bib) s = .next (t.respond l tag .unknown .nothing))

/-! ## Registry -/

/-- SET POINT writes a course entry whose distance lies between those of its neighbours, point 0 at 0 m, and every lower
point configured; CLEAR POINT removes the finish, with its place counter and the crossings parked there, unless a port or
a runner's crossing stands at it; both are refused with LOCKED while the course lock is set, and with RANGE and STATE
otherwise (R69, R70). -/
def Obligations.CourseCommands : Prop :=
  (∀ (s : State) (l : Side) (tag point : Byte) (distance : Half) (policy : Byte) (display : Bool), s.mayEdit l →
    let t := s.hearControl l
    let course := s.registry.course
    (9 < point.toNat ∨ 60000 < distance.toNat ∨ 1 < policy.toNat →
      exec (.setPoint l tag point distance policy display) s = .next (t.respond l tag .range .nothing)) ∧
    (∀ p : Point, point.toNat = p.val → distance.toNat ≤ 60000 → policy.toNat ≤ 1 →
      let fits := (∀ q : Point, q < p → course[q].isSome = true) ∧ (p.val = 0 → distance.toNat = 0) ∧
        (∀ q : Point, ∀ x, q.val + 1 = p.val → course[q] = some x → x.distance < distance.toNat) ∧
        (∀ q : Point, ∀ x, q.val = p.val + 1 → course[q] = some x → distance.toNat < x.distance)
      (s.clock.locked = true →
        exec (.setPoint l tag point distance policy display) s = .next (t.respond l tag .locked .nothing)) ∧
      (s.clock.locked = false → fits →
        exec (.setPoint l tag point distance policy display) s = .next (({ t with registry := { s.registry with
          course := course.set p (some { distance := distance.toNat
                                         policy := if policy.toNat = 0 then .first else .peak, display }) } }).respond l
          tag .ok .nothing)) ∧
      (s.clock.locked = false → ¬ fits →
        exec (.setPoint l tag point distance policy display) s = .next (t.respond l tag .range .nothing)))) ∧
  (∀ (s : State) (l : Side) (tag point : Byte), s.mayEdit l →
    let t := s.hearControl l
    (9 < point.toNat → exec (.clearPoint l tag point) s = .next (t.respond l tag .range .nothing)) ∧
    (∀ p : Point, point.toNat = p.val →
      let free := s.registry.course[p].isSome = true ∧ (∀ q : Point, p < q → s.registry.course[q] = none) ∧
        (∀ x : Port, s.registry.ports[x].point ≠ some p) ∧ ∀ r ∈ s.registry.runners, r.crossings[p] = none
      (s.clock.locked = true → exec (.clearPoint l tag point) s = .next (t.respond l tag .locked .nothing)) ∧
      (s.clock.locked = false → free →
        exec (.clearPoint l tag point) s = .next (({ t with
          registry := { s.registry with
            course := s.registry.course.set p none, counters := s.registry.counters.set p 0 }
          park := s.park.filterMap fun e : ParkEntry =>
            if ∃ q : Point, q ≠ p ∧ e.crossings[q].isSome = true then
              some { e with crossings := e.crossings.set p none }
            else none }).respond l tag .ok .nothing)) ∧
      (s.clock.locked = false → ¬ free →
        exec (.clearPoint l tag point) s = .next (t.respond l tag .state .nothing))))

/-- SET PORT gives the port its point and its allowance, kept when none is given; the port's passages close under the old
point when a point is given and are discarded when none is, and a held read of the port that is AS TAKEN becomes PORT
RESET; a port, point or allowance out of range is refused with RANGE, an unconfigured point with STATE and one that two
other ports feed with FULL (R61, R62, R72, R73). -/
def Obligations.SetPortAssigns : Prop :=
  ∀ (s : State) (l : Side) (tag port : Byte) (allowance : Option Half), s.mayEdit l →
    let t := s.hearControl l
    let reset := fun (p : Port) => s.passage.held.map fun h : HeldRead =>
      if h.port = p ∧ h.standing = .asTaken then { h with standing := Standing.portReset } else h
    (∀ point : Option Byte, (11 < port.toNat ∨ (∃ b ∈ point, 9 < b.toNat) ∨ ∃ v ∈ allowance, 2000 < v.toNat) →
      exec (.setPort l tag port point allowance) s = .next (t.respond l tag .range .nothing)) ∧
    (∀ (p : Port) (a : Nat), port.toNat = p.val → (∀ v ∈ allowance, v.toNat ≤ 2000) →
      a = (allowance.map fun v => v.toNat).getD s.registry.ports[p].allowance →
      (exec (.setPort l tag port none allowance) s = .next (({ t with
        passage := { s.passage with lists := s.passage.lists.set p [], held := reset p }
        registry := { s.registry with ports := s.registry.ports.set p { point := none, allowance := a } }
        }).respond l tag .ok .nothing)) ∧
      (∀ (b : Byte) (q : Point), b.toNat = q.val →
        let others := (List.finRange 12).filter fun x : Port => x != p && s.registry.ports[x].point == some q
        let u := (t.withPassages p []).closeAll p s.passage.lists[p]
        (s.registry.course[q] = none →
          exec (.setPort l tag port (some b) allowance) s = .next (t.respond l tag .state .nothing)) ∧
        (s.registry.course[q].isSome = true → 2 ≤ others.length →
          exec (.setPort l tag port (some b) allowance) s = .next (t.respond l tag .full .nothing)) ∧
        (s.registry.course[q].isSome = true → others.length < 2 →
          exec (.setPort l tag port (some b) allowance) s = .next (({ u with
            passage := { u.passage with held := reset p }
            registry := { u.registry with ports := s.registry.ports.set p { point := some q, allowance := a } }
            }).respond l tag .ok .nothing))))

/-- SET LIMITS gives each limit given its value, when all lie in their ranges, and is refused with RANGE otherwise; a
changed dwell gap or max dwell closes, port by port and oldest first, every passage whose deadline is then at or before
now, and a changed stale horizon moves the stale deadlines (R43, R61, R74). That the passages close before the stale
deadlines move, and that a moved deadline makes a port STALE, and closes a passage, also while the clock is STOPPED, are
the model's choices (log entries 19, 31 and 35). -/
def Obligations.SetLimitsApplies : Prop :=
  (∀ (s : State) (l : Side) (tag : Byte) (a : LimitsArgs), s.mayEdit l →
    let t := s.hearControl l
    let old := s.registry.limits
    let value := fun (v : Option Half) (kept : Nat) => (v.map fun x => x.toNat).getD kept
    let m : Limits :=
      { minPace := value a.minPace old.minPace, confirmWindow := value a.confirmWindow old.confirmWindow
        dwellGap := value a.dwellGap old.dwellGap, maxDwell := value a.maxDwell old.maxDwell
        projectionFloor := value a.projectionFloor old.projectionFloor
        staleHorizon := value a.staleHorizon old.staleHorizon }
    let inRange := (∀ v ∈ a.minPace, 100 ≤ v.toNat ∧ v.toNat ≤ 400) ∧
      (∀ v ∈ a.confirmWindow, 1000 ≤ v.toNat ∧ v.toNat ≤ 60000) ∧
      (∀ v ∈ a.dwellGap, 200 ≤ v.toNat ∧ v.toNat ≤ 5000) ∧ (∀ v ∈ a.maxDwell, 5000 ≤ v.toNat ∧ v.toNat ≤ 60000) ∧
      (∀ v ∈ a.projectionFloor, 1000 ≤ v.toNat ∧ v.toNat ≤ 40000) ∧
      (∀ v ∈ a.staleHorizon, 2000 ≤ v.toNat ∧ v.toNat ≤ 30000)
    let u : State := { t with registry := { s.registry with limits := m } }
    let v := if m.dwellGap = old.dwellGap ∧ m.maxDwell = old.maxDwell then u
      else (List.finRange 12).foldl (fun x p => x.closeOverdue p) u
    let w := if m.staleHorizon = old.staleHorizon then v else (List.finRange 12).foldl (fun x p => x.moveStale p) v
    (inRange → exec (.setLimits l tag a) s = .next (w.respond l tag .ok .nothing)) ∧
    (¬ inRange → exec (.setLimits l tag a) s = .next (t.respond l tag .range .nothing))) ∧
  (∀ (s : State) (p : Port),
    let overdue := fun x : Passage =>
      decide (min (min (x.lastTaken + s.registry.limits.dwellGap) 4294967295)
        (min (x.firstTaken + s.registry.limits.maxDwell) 4294967295) ≤ s.clock.value)
    s.closeOverdue p = ((s.passage.lists[p].filter overdue).foldl (fun t x => t.closeCrossing p x)
      (s.withPassages p (s.passage.lists[p].filter fun x => !overdue x)))) ∧
  (∀ (s : State) (p : Port),
    (s.align[p].sync ≠ .synced → s.moveStale p = s) ∧
    (∀ n, s.align[p].sync = .synced → s.align[p].history.getLast? = some n →
      let dl := min (n.pulse + s.registry.limits.staleHorizon) 4294967295
      (s.clock.value < dl → s.moveStale p = s.withAlign p { s.align[p] with staleDeadline := some dl }) ∧
      (dl ≤ s.clock.value → s.moveStale p =
        (s.withAlign p { s.align[p] with sync := .stale, staleDeadline := none }).raise .syncLost)))

/-- REGISTER creates a REGISTERED record without crossings, maps its chips, and replays what is parked under them, chip
by chip in the order given; it is refused with RANGE, DUPLICATE for equal chips, DUPLICATE for a bib in the table, FULL
and DUPLICATE for a chip in the map, in this order (R77, R78). The tables in rising order are the model's form of the
sets (log entry 18). -/
def Obligations.RegisterAddsRunner : Prop :=
  (∀ (s : State) (l : Side) (tag : Byte) (bib : Half) (wave : Byte) (chips : List Word32) (name : Option Name),
    s.mayEdit l →
    let t := s.hearControl l
    let inRange := bib ≠ 0 ∧ wave.toNat ≤ 15 ∧ chips.length ≤ 2 ∧ 0 ∉ chips ∧
      ∀ n ∈ name, n.length ≤ 12 ∧ ∀ c ∈ n, 0x20 ≤ c.toNat ∧ c.toNat ≤ 0x7E
    (¬ inRange → exec (.register l tag bib wave chips name) s = .next (t.respond l tag .range .nothing)) ∧
    (inRange → ¬ chips.Nodup →
      exec (.register l tag bib wave chips name) s = .next (t.respond l tag .duplicate .nothing)) ∧
    (inRange → (∃ r ∈ s.registry.runners, r.bib = bib) →
      exec (.register l tag bib wave chips name) s = .next (t.respond l tag .duplicate .nothing)) ∧
    (inRange → chips.Nodup → (∀ r ∈ s.registry.runners, r.bib ≠ bib) → 32768 ≤ s.registry.runners.length →
      exec (.register l tag bib wave chips name) s = .next (t.respond l tag .full .nothing)) ∧
    (inRange → (∀ r ∈ s.registry.runners, r.bib ≠ bib) → s.registry.runners.length < 32768 →
      (∃ chip ∈ chips, (s.bibOf chip).isSome = true) →
      exec (.register l tag bib wave chips name) s = .next (t.respond l tag .duplicate .nothing)) ∧
    (∀ w : Wave, wave.toNat = w.val → inRange → chips.Nodup → (∀ r ∈ s.registry.runners, r.bib ≠ bib) →
      s.registry.runners.length < 32768 → (∀ chip ∈ chips, s.bibOf chip = none) →
      let r : Runner :=
        { bib, wave := w, chips, name, status := .registered, crossings := Vector.replicate 10 none }
      let u : State := { t with registry := { s.registry with
        runners := insertRunner r s.registry.runners
        chipMap := chips.foldl (fun m chip => insertChip chip bib m) s.registry.chipMap } }
      exec (.register l tag bib wave chips name) s = .next ((chips.foldl (fun v chip =>
        match v.park.find? fun e => e.chip == chip with
        | none => v
        | some e => ({ v with park := v.park.filter fun y => y.chip != chip }).replay e) u).respond l tag .ok
          .nothing))) ∧
  (∀ (r : Runner) (runners : List Runner), ∃ front back, runners = front ++ back ∧
    insertRunner r runners = front ++ r :: back ∧ (∀ x ∈ front, x.bib < r.bib) ∧ ∀ x ∈ back.head?, r.bib ≤ x.bib) ∧
  (∀ (chip : Word32) (bib : Half) (chips : List (Word32 × Half)), ∃ front back, chips = front ++ back ∧
    insertChip chip bib chips = front ++ (chip, bib) :: back ∧ (∀ x ∈ front, x.1 < chip) ∧
    ∀ x ∈ back.head?, chip ≤ x.1)

/-- REMOVE takes a REGISTERED runner without a crossing out of the table and its chips out of the chip map; SET NAME
replaces a runner's name at any status; a bib of 0 or a name that does not fit is refused with RANGE, a bib without a
record with UNKNOWN, and REMOVE of any other runner with STATE (R79, R80). -/
def Obligations.RemoveAndSetName : Prop :=
  ∀ (s : State) (l : Side) (tag : Byte) (bib : Half) (name : Option Name), s.mayEdit l →
    let t := s.hearControl l
    let fits := ∀ n ∈ name, n.length ≤ 12 ∧ ∀ c ∈ n, 0x20 ≤ c.toNat ∧ c.toNat ≤ 0x7E
    (bib = 0 → exec (.remove l tag bib) s = .next (t.respond l tag .range .nothing)) ∧
    (bib = 0 ∨ ¬ fits → exec (.setName l tag bib name) s = .next (t.respond l tag .range .nothing)) ∧
    (bib ≠ 0 → s.runner bib = none →
      exec (.remove l tag bib) s = .next (t.respond l tag .unknown .nothing)) ∧
    (bib ≠ 0 → fits → s.runner bib = none →
      exec (.setName l tag bib name) s = .next (t.respond l tag .unknown .nothing)) ∧
    (∀ r, bib ≠ 0 → s.runner bib = some r →
      (r.status ≠ .registered ∨ (∃ p : Point, r.crossings[p].isSome = true) →
        exec (.remove l tag bib) s = .next (t.respond l tag .state .nothing)) ∧
      (r.status = .registered → (∀ p : Point, r.crossings[p] = none) →
        exec (.remove l tag bib) s = .next (({ t with registry := { s.registry with
          runners := s.registry.runners.filter fun x => x.bib != bib
          chipMap := s.registry.chipMap.filter fun x => !r.chips.contains x.1 } }).respond l tag .ok .nothing)) ∧
      (fits → exec (.setName l tag bib name) s = .next (({ t with registry := { s.registry with
        runners := s.registry.runners.map fun x : Runner => if x.bib = bib then { r with name := name } else x } }).respond l
          tag .ok .nothing)))

/-! ## Corrections and binding -/

/-- AMEND sets a crossing of source CONTROL at a configured point, not later than now, that keeps the place that stood
there or takes the next; AMEND with CLEAR removes a crossing; ACCEPT takes the suspect reason away and gives a place when
there is none; the status is derived; refusals are RANGE, UNKNOWN, STATE and, for a time after now, RANGE (R102, R103,
R104, R105). -/
def Obligations.AmendClearAndAccept : Prop :=
  ∀ (s : State) (l : Side) (tag : Byte) (bib : Half) (point : Byte) (time : Word32), s.mayEdit l →
    let t := s.hearControl l
    (bib = 0 ∨ 9 < point.toNat →
      exec (.amend l tag bib point time) s = .next (t.respond l tag .range .nothing) ∧
      exec (.amendClear l tag bib point) s = .next (t.respond l tag .range .nothing) ∧
      exec (.accept l tag bib point) s = .next (t.respond l tag .range .nothing)) ∧
    (bib ≠ 0 → point.toNat ≤ 9 → s.runner bib = none →
      exec (.amend l tag bib point time) s = .next (t.respond l tag .unknown .nothing) ∧
      exec (.amendClear l tag bib point) s = .next (t.respond l tag .unknown .nothing) ∧
      exec (.accept l tag bib point) s = .next (t.respond l tag .unknown .nothing)) ∧
    (∀ (r : Runner) (p : Point), bib ≠ 0 → point.toNat = p.val → s.runner bib = some r →
      let next := if s.registry.counters[p] < 65535 then s.registry.counters[p] + 1 else 65535
      let placed := fun (place : Option Nat) => if place.isSome then s.registry.counters
        else s.registry.counters.set p next
      let write := fun (counters : Vector Nat 10) (c : Option Crossing) => ({ t with registry := { s.registry with
        counters := counters } }).putRunner ((r.withCrossing p c).derived s.registry.course)
      (s.registry.course[p] = none →
        exec (.amend l tag bib point time) s = .next (t.respond l tag .state .nothing)) ∧
      (s.registry.course[p].isSome = true → s.clock.value < time.toNat →
        exec (.amend l tag bib point time) s = .next (t.respond l tag .range .nothing)) ∧
      (s.registry.course[p].isSome = true → time.toNat ≤ s.clock.value →
        let place := r.crossings[p].bind fun c => c.place
        exec (.amend l tag bib point time) s = .next ((write (placed place) (some
          { time := time.toNat, source := .control, place := some (place.getD next), estimated := false
            confirmed := false, amended := true, suspect := none })).respond l tag .ok .nothing)) ∧
      (r.crossings[p] = none →
        exec (.amendClear l tag bib point) s = .next (t.respond l tag .state .nothing) ∧
        exec (.accept l tag bib point) s = .next (t.respond l tag .state .nothing)) ∧
      (∀ c, r.crossings[p] = some c →
        exec (.amendClear l tag bib point) s = .next ((write s.registry.counters none).respond l tag .ok .nothing) ∧
        (c.suspect = none → exec (.accept l tag bib point) s = .next (t.respond l tag .state .nothing)) ∧
        (c.suspect.isSome = true → exec (.accept l tag bib point) s = .next ((write (placed c.place) (some
          { c with suspect := none, place := some (c.place.getD next) })).respond l tag .ok .nothing))))

/-- WITHDRAW takes a REGISTERED or RUNNING runner, DISQUALIFY any but a DISQUALIFIED one, whose items leave the screens,
and REINSTATE a WITHDRAWN or DISQUALIFIED one, whose status is derived again from its crossings; other statuses are
refused with STATE (R98, R102, R106, R107, R108). A screen loses its items of the bib and no others by that, uncounted;
its head is considered where a line became empty or the head was removed, its sequence rises once, and a screen without
the bib does not change (R149, R150). That the screens drop the items in the order 0 to 7 is the model's choice (log
entry 32). -/
def Obligations.StatusCommands : Prop :=
  (∀ (s : State) (l : Side) (tag : Byte) (bib : Half), s.mayEdit l →
    let t := s.hearControl l
    (bib = 0 →
      exec (.withdraw l tag bib) s = .next (t.respond l tag .range .nothing) ∧
      exec (.disqualify l tag bib) s = .next (t.respond l tag .range .nothing) ∧
      exec (.reinstate l tag bib) s = .next (t.respond l tag .range .nothing)) ∧
    (bib ≠ 0 → s.runner bib = none →
      exec (.withdraw l tag bib) s = .next (t.respond l tag .unknown .nothing) ∧
      exec (.disqualify l tag bib) s = .next (t.respond l tag .unknown .nothing) ∧
      exec (.reinstate l tag bib) s = .next (t.respond l tag .unknown .nothing)) ∧
    (∀ r, bib ≠ 0 → s.runner bib = some r →
      (r.status = .registered ∨ r.status = .running → exec (.withdraw l tag bib) s =
        .next ((t.putRunner { r with status := .withdrawn }).respond l tag .ok .nothing)) ∧
      (r.status ≠ .registered → r.status ≠ .running →
        exec (.withdraw l tag bib) s = .next (t.respond l tag .state .nothing)) ∧
      (r.status ≠ .disqualified → exec (.disqualify l tag bib) s =
        .next (((t.putRunner { r with status := .disqualified }).dropBib bib).respond l tag .ok .nothing)) ∧
      (r.status = .disqualified → exec (.disqualify l tag bib) s = .next (t.respond l tag .state .nothing)) ∧
      (r.status = .withdrawn ∨ r.status = .disqualified → exec (.reinstate l tag bib) s =
        .next ((t.putRunner { r with status := statusFrom s.registry.course r.crossings }).respond l tag .ok
          .nothing)) ∧
      (r.status ≠ .withdrawn → r.status ≠ .disqualified →
        exec (.reinstate l tag bib) s = .next (t.respond l tag .state .nothing)))) ∧
  (∀ (course : Course) (cs : Crossings),
    let counted := fun p : Point => ∃ c, cs[p] = some c ∧ c.suspect = none
    (statusFrom course cs = .finished ↔
      ∃ p : Point, course[p].isSome = true ∧ (∀ q : Point, p < q → course[q] = none) ∧ counted p) ∧
    (statusFrom course cs = .registered ↔ ∀ p : Point, ¬ counted p) ∧
    (statusFrom course cs = .finished ∨ statusFrom course cs = .running ∨ statusFrom course cs = .registered)) ∧
  (∀ (s : State) (bib : Half),
    s.dropBib bib = (List.finRange 8).foldl (fun u k => u.settleScreen k (u.screens[k].dropBib u.clock.value bib)) s ∧
    ∀ k : ScreenNo,
      (∀ x ∈ (s.dropBib bib).screens[k].items, x.bib ≠ bib ∧ x ∈ s.screens[k].items) ∧
      ((∀ x ∈ s.screens[k].items, x.bib ≠ bib) → (s.dropBib bib).screens[k] = s.screens[k]) ∧
      ((∃ x ∈ s.screens[k].items, x.bib = bib) → (s.dropBib bib).screens[k].seq = s.screens[k].seq + 1)) ∧
  (∀ (x : Screen) (now : Nat) (bib : Half),
    let lines := x.lines.map fun y => match y with
      | some z => if z.item.bib = bib then none else some z
      | none => none
    let queue := x.queue.filter fun y => y.bib ≠ bib
    let head := considerHead x.profile now queue lines
    let headGone := ∃ y ∈ x.queue.head?, y.bib = bib
    (lines = x.lines → queue = x.queue →
      x.dropBib now bib = { screen := x, counts := [], rises := false, full := false }) ∧
    (lines ≠ x.lines ∨ headGone → x.dropBib now bib = {
      screen := { x with queue := head.queue, lines := head.lines, waiting := head.waiting }
      counts := head.counts, rises := true, full := false }) ∧
    (lines = x.lines → queue ≠ x.queue → ¬ headGone →
      x.dropBib now bib = { screen := { x with queue := queue }, counts := [], rises := true, full := false }))

/-- BIND adds a chip to a runner's chip set and to the chip map, then takes the chip's entry out of the Park List and
replays its crossings in point order; DISCARD drops an entry; the refusals of BIND are RANGE, UNKNOWN, FULL and
DUPLICATE, those of DISCARD RANGE and UNKNOWN (R130, R131, R132, R133). The chip map in rising order is the model's form
of the set (log entry 18). -/
def Obligations.BindAndDiscard : Prop :=
  (∀ (s : State) (l : Side) (tag : Byte) (chip : Word32) (bib : Half), s.mayEdit l →
    let t := s.hearControl l
    (chip = 0 ∨ bib = 0 → exec (.bind l tag chip bib) s = .next (t.respond l tag .range .nothing)) ∧
    (chip ≠ 0 → bib ≠ 0 → s.runner bib = none →
      exec (.bind l tag chip bib) s = .next (t.respond l tag .unknown .nothing)) ∧
    (∀ r, chip ≠ 0 → bib ≠ 0 → s.runner bib = some r →
      let u : State := { t with registry := { s.registry with
        runners := s.registry.runners.map fun x => if x.bib = bib then { r with chips := r.chips ++ [chip] } else x
        chipMap := insertChip chip bib s.registry.chipMap } }
      (2 ≤ r.chips.length → exec (.bind l tag chip bib) s = .next (t.respond l tag .full .nothing)) ∧
      (r.chips.length < 2 → (s.bibOf chip).isSome = true →
        exec (.bind l tag chip bib) s = .next (t.respond l tag .duplicate .nothing)) ∧
      (r.chips.length < 2 → s.bibOf chip = none → (∀ e ∈ s.park, e.chip ≠ chip) →
        exec (.bind l tag chip bib) s = .next (u.respond l tag .ok .nothing)) ∧
      (r.chips.length < 2 → s.bibOf chip = none → ∀ e, (s.park.find? fun y => y.chip == chip) = some e →
        exec (.bind l tag chip bib) s = .next ((({ u with park := s.park.filter fun y => y.chip != chip }).replay
          e).respond l tag .ok .nothing)))) ∧
  (∀ (s : State) (e : ParkEntry), s.replay e = (List.finRange 10).foldl (fun u p =>
    match e.crossings[p] with
    | none => u
    | some x => u.takeCrossing
      { chip := e.chip, point := p, source := x.source, time := x.time, estimated := x.estimated } true) s) ∧
  (∀ (s : State) (l : Side) (tag : Byte) (chip : Word32), s.mayEdit l →
    let t := s.hearControl l
    (chip = 0 → exec (.discard l tag chip) s = .next (t.respond l tag .range .nothing)) ∧
    (chip ≠ 0 → (∀ e ∈ s.park, e.chip ≠ chip) →
      exec (.discard l tag chip) s = .next (t.respond l tag .unknown .nothing)) ∧
    (chip ≠ 0 → (∃ e ∈ s.park, e.chip = chip) →
      exec (.discard l tag chip) s = .next (({ t with park := s.park.filter fun e => e.chip != chip }).respond l tag .ok
        .nothing)))

/-! ## Tallies, the Settings Store and RESTART -/

/-- SET TALLY replaces a tally with its value at 0; FREEZE freezes the unit or replaces its trigger set; THAW thaws it
and CLEAR TALLIES zeroes the values; an argument out of range is refused with RANGE (R176, R179). The qualifier set kept
in rising order and the trigger set kept in the order of the table of R168 are the model's form of them (log entry
18). -/
def Obligations.TallyCommands : Prop :=
  ∀ (s : State) (l : Side) (tag : Byte), s.inCharge l →
    let t := s.hearControl l
    (∀ (tally cls : Byte) (qualifiers : List Byte) (limit : Option Word32) (stop : Bool) (i : Fin 8) (c : TallyClass),
      tally.toNat = i.val → TallyClass.all[cls.toNat]? = some c →
      (∀ q ∈ qualifiers, q.toNat < c.qualifierCount) → limit ≠ some 0 →
      ∃ set : List Nat, (∀ n, n ∈ set ↔ ∃ q ∈ qualifiers, q.toNat = n) ∧ set.Pairwise (· < ·) ∧
        exec (.setTally l tag tally cls qualifiers limit stop) s = .next (({ t with tally := { s.tally with
          tallies := s.tally.tallies.set i { cls := c, qualifiers := set, limit, stop, value := 0 } } }).respond l tag .ok
          .nothing)) ∧
    (∀ (tally cls : Byte) (qualifiers : List Byte) (limit : Option Word32) (stop : Bool),
      (7 < tally.toNat ∨ 18 < cls.toNat ∨ limit = some 0 ∨
        ∃ c, TallyClass.all[cls.toNat]? = some c ∧ ∃ q ∈ qualifiers, c.qualifierCount ≤ q.toNat) →
      exec (.setTally l tag tally cls qualifiers limit stop) s = .next (t.respond l tag .range .nothing)) ∧
    (exec (.freeze l tag none) s =
      .next (({ t with tally := { s.tally with frozen := true } }).respond l tag .ok .nothing)) ∧
    (∀ conds : List Byte, (∀ b ∈ conds, 1 ≤ b.toNat ∧ b.toNat ≤ 18) →
      ∃ triggers : CondSet, (∀ c, c ∈ triggers ↔ ∃ b ∈ conds, Condition.all[b.toNat - 1]? = some c) ∧
        List.Sublist triggers Condition.all ∧
        exec (.freeze l tag (some conds)) s =
          .next (({ t with tally := { s.tally with triggers := triggers } }).respond l tag .ok .nothing)) ∧
    (∀ conds : List Byte, (∃ b ∈ conds, b.toNat = 0 ∨ 18 < b.toNat) →
      exec (.freeze l tag (some conds)) s = .next (t.respond l tag .range .nothing)) ∧
    (exec (.thaw l tag) s =
      .next (({ t with tally := { s.tally with frozen := false } }).respond l tag .ok .nothing)) ∧
    (∃ tallies : Vector Tally 8, (∀ i : Fin 8, tallies[i] = { s.tally.tallies[i] with value := 0 }) ∧
      exec (.clearTallies l tag) s =
        .next (({ t with tally := { s.tally with tallies := tallies } }).respond l tag .ok .nothing))

/-- One tally event: a frozen unit counts nothing; otherwise every tally of its class that takes its qualifier rises by
1 and wraps; TALLY_LIMIT is raised when one reaches its limit, and the unit then freezes when one that did has its stop
flag; several events are counted one after another (R177, R178). Raising a condition adds it to both pending sets, or to
that of the one link it is raised to, and freezes the unit when it is a trigger (R168, R179). -/
def Obligations.EventsAndConditionsAreMarked : Prop :=
  (∀ (s : State) (c : TallyClass) (q : Nat), s.tally.frozen = true → s.count c q = s) ∧
  (∀ (s : State) (c : TallyClass) (q : Nat) (tallies : Vector Tally 8), s.tally.frozen = false → c ≠ .none →
    let hit := fun i : Fin 8 => s.tally.tallies[i].cls = c ∧
      (s.tally.tallies[i].qualifiers = [] ∨ q ∈ s.tally.tallies[i].qualifiers)
    let reached := fun i : Fin 8 => hit i ∧ s.tally.tallies[i].limit = some (s.tally.tallies[i].value + 1)
    (∀ i : Fin 8, (hit i → tallies[i] = { s.tally.tallies[i] with value := s.tally.tallies[i].value + 1 }) ∧
      (¬ hit i → tallies[i] = s.tally.tallies[i])) →
    let counted : State := { s with tally := { s.tally with tallies := tallies } }
    let raised := counted.raise .tallyLimit
    ((∀ i, ¬ reached i) → s.count c q = counted) ∧
    ((∃ i, reached i) → (∀ i, reached i → s.tally.tallies[i].stop = false) → s.count c q = raised) ∧
    ((∃ i, reached i ∧ s.tally.tallies[i].stop = true) →
      s.count c q = { raised with tally := { raised.tally with frozen := true } })) ∧
  (∀ (s : State) (c : Condition), ∃ a b : CondSet,
    (∀ d, d ∈ a ↔ d = c ∨ d ∈ s.control.linkA.pending) ∧ (∀ d, d ∈ b ↔ d = c ∨ d ∈ s.control.linkB.pending) ∧
    s.raise c = { s with
      control := { s.control with
        linkA := { s.control.linkA with pending := a }, linkB := { s.control.linkB with pending := b } }
      tally := { s.tally with frozen := s.tally.frozen || s.tally.triggers.contains c } }) ∧
  (∀ (s : State) (c : Condition),
    (∃ a : CondSet, (∀ d, d ∈ a ↔ d = c ∨ d ∈ s.control.linkA.pending) ∧ s.raiseTo .a c = { s with
      control := { s.control with linkA := { s.control.linkA with pending := a } }
      tally := { s.tally with frozen := s.tally.frozen || s.tally.triggers.contains c } }) ∧
    (∃ b : CondSet, (∀ d, d ∈ b ↔ d = c ∨ d ∈ s.control.linkB.pending) ∧ s.raiseTo .b c = { s with
      control := { s.control with linkB := { s.control.linkB with pending := b } }
      tally := { s.tally with frozen := s.tally.frozen || s.tally.triggers.contains c } }) ∧
    s.raiseIf true c = s.raise c ∧ s.raiseIf false c = s) ∧
  (∀ (s : State) (c : TallyClass) (q n : Nat), s.countTimes c q n = (fun t : State => t.count c q)^[n] s)

/-- STORE takes a snapshot of the working settings, clears the mark and begins to erase, unless a STORE runs; the erase
empties the image, the write gives it the snapshot, sets the mark and raises STORE_DONE (R183). RESTART is answered and
its station reset is then due (R185). -/
def Obligations.StoreCycleAndRestart : Prop :=
  (∀ (s : State) (l : Side) (tag : Byte), s.inCharge l →
    let t := s.hearControl l
    (s.store.state = .idle → ∃ w : Settings, w.course = s.registry.course ∧ w.ports = s.registry.ports ∧
      w.limits = s.registry.limits ∧ (∀ k : ScreenNo, w.profiles[k] = s.screens[k].profile) ∧
      exec (.store l tag) s = .next (({ t with store := { s.store with
        snapshot := some w, state := .erasing, valid := false } }).respond l tag .ok .nothing)) ∧
    (s.store.state ≠ .idle → exec (.store l tag) s = .next (t.respond l tag .busy .nothing)) ∧
    (exec (.restart l tag) s = .next (({ t with restartDue := true }).respond l tag .ok .nothing))) ∧
  (∀ s : State, s.store.state = .erasing →
    exec .eraseCompletion s = .next { s with store := { s.store with image := none, state := .writing } }) ∧
  (∀ (s : State) (w : Settings), s.store.state = .writing → s.store.snapshot = some w →
    exec .writeCompletion s = .next ({ s with
      store := { image := some w, valid := true, state := .idle, snapshot := none } }.raise .storeDone))

/-! ## What every step keeps -/

/-- Every step keeps the clock's values in their ranges and the sync histories in order under the latest pulse (R4, R9,
R12, R35, R36, R41, R42). -/
def Obligations.StepKeepsClockAndAlignment : Prop :=
  ∀ s t : State, s.clock.Sound → s.Aligned → step s = .next t → t.clock.Sound ∧ t.Aligned

/-- Every step keeps the balance of credits and reads on each mat port (R30) and the passage lists within their bounds
(R55, R61, R62). -/
def Obligations.StepKeepsBalanceAndPassages : Prop :=
  (∀ s t : State, s.Balanced → step s = .next t → t.Balanced) ∧
  (∀ s t : State, s.PassagesSound → step s = .next t → t.PassagesSound)

/-- Every step keeps the settings in their ranges, the course in order and the ports on configured points (R68, R72,
R74, R138), and the store's mark and snapshot true to its state (R183). -/
def Obligations.StepKeepsSettingsAndStore : Prop :=
  (∀ s t : State, s.SettingsSound → step s = .next t → t.SettingsSound) ∧
  (∀ s t : State, s.StoreSound → step s = .next t → t.StoreSound)

/-- Every step keeps the runner table (R75, R81, R82, R88), the chip map that leads from its chips (R76), and the Park
List, which holds no mapped chip (R76, R126). -/
def Obligations.StepKeepsRunnersChipsAndPark : Prop :=
  ∀ s t : State, s.RunnersSound → s.ChipsSound → s.ParkSound → step s = .next t →
    t.RunnersSound ∧ t.ChipsSound ∧ t.ParkSound

/-- Every step keeps the due queues in order and within 64 items, one item for a bib and a point, and a held request on
an UP link alone (R141, R151, R152). -/
def Obligations.StepKeepsScreens : Prop :=
  ∀ s t : State, s.ScreensSound → step s = .next t → t.ScreensSound

/-- Every step keeps a pending claim against the other link's token (R163 to R167), the watch list and the watch log
within their bounds (R171, R172), and the tallies' qualifiers within their class (R176). -/
def Obligations.StepKeepsTokenWatchAndTallies : Prop :=
  (∀ s t : State, s.TokenSound → step s = .next t → t.TokenSound) ∧
  (∀ s t : State, s.WatchSound → step s = .next t → t.WatchSound) ∧
  (∀ s t : State, s.TalliesSound → step s = .next t → t.TalliesSound)

/-- Every step keeps the state of a Race Reset: the command in progress is the requester's, and while the Registry is
RESETTING the clock is STOPPED at 0 and nothing is held, open or parked (R16, R65, R83, R84, R136). -/
def Obligations.StepKeepsRaceReset : Prop :=
  ∀ s t : State, s.ResetSound → step s = .next t → t.ResetSound

/-! ## Messages -/

/-- The message of every well-formed command that has one is read back as that command, and the bytes of its frame,
arriving together, come to that command alone; while start-up is in progress a frame on a screen or control link is
discarded, and the search resumes at the byte after its start byte (R185, R186, R187, R188, R190). The receiver as a
function over timed bytes is the model's form (log entry 14). -/
def Obligations.MessagesRoundTrip : Prop :=
  ∀ (i : Instr) (m : Message) (now time : Nat), i.wellFormed = true → i.message = some m →
    let bytes := fun inStartUp : Bool =>
      (frameBytes m.kind m.body).map fun b => { at_ := time, byte := b, startUp := inStartUp : TimedByte }
    parseMessage m.link m.kind m.body = some i ∧
    receive m.link now (bytes false) = [i] ∧
    (∀ p, m.link = .mat p → receive m.link now (bytes true) = [i]) ∧
    ((∀ p, m.link ≠ .mat p) →
      receive m.link now (bytes true) = .discardedFrame m.link :: receive m.link now (bytes true).tail)
end

