-- ==== Sys2Proof/Laws/State.lean ====
section
/-! SUPPORT. Each field of the state after each named update, and the laws of the two control links. -/

namespace Sys2Proof

/-- The two links differ. -/
@[simp] theorem Side.other_ne (l : Side) : l.other ≠ l := by cases l <;> decide

/-- The other link of the other link. -/
@[simp] theorem Side.other_other (l : Side) : l.other.other = l := by cases l <;> rfl

end Sys2Proof

namespace Sys2Proof.Machine

variable (s : State)

/-! ## withClock -/

@[simp] theorem State.withClock_clock (c : RaceClock) : (s.withClock c).clock = c := rfl
@[simp] theorem State.withClock_intake (c : RaceClock) : (s.withClock c).intake = s.intake := rfl
@[simp] theorem State.withClock_align (c : RaceClock) : (s.withClock c).align = s.align := rfl
@[simp] theorem State.withClock_passage (c : RaceClock) : (s.withClock c).passage = s.passage := rfl
@[simp] theorem State.withClock_registry (c : RaceClock) : (s.withClock c).registry = s.registry := rfl
@[simp] theorem State.withClock_park (c : RaceClock) : (s.withClock c).park = s.park := rfl
@[simp] theorem State.withClock_screens (c : RaceClock) : (s.withClock c).screens = s.screens := rfl
@[simp] theorem State.withClock_control (c : RaceClock) : (s.withClock c).control = s.control := rfl
@[simp] theorem State.withClock_tally (c : RaceClock) : (s.withClock c).tally = s.tally := rfl
@[simp] theorem State.withClock_store (c : RaceClock) : (s.withClock c).store = s.store := rfl
@[simp] theorem State.withClock_startUp (c : RaceClock) : (s.withClock c).startUp = s.startUp := rfl
@[simp] theorem State.withClock_restartDue (c : RaceClock) : (s.withClock c).restartDue = s.restartDue := rfl
@[simp] theorem State.withClock_elapsed (c : RaceClock) : (s.withClock c).elapsed = s.elapsed := rfl
@[simp] theorem State.withClock_sent (c : RaceClock) : (s.withClock c).sent = s.sent := rfl
@[simp] theorem State.withClock_pending (c : RaceClock) : (s.withClock c).pending = s.pending := rfl

/-! ## withIntake -/

@[simp] theorem State.withIntake_clock (p : Port) (m : MatIntake) : (s.withIntake p m).clock = s.clock := rfl
@[simp] theorem State.withIntake_intake (p : Port) (m : MatIntake) : (s.withIntake p m).intake = s.intake.set p m := rfl
@[simp] theorem State.withIntake_align (p : Port) (m : MatIntake) : (s.withIntake p m).align = s.align := rfl
@[simp] theorem State.withIntake_passage (p : Port) (m : MatIntake) : (s.withIntake p m).passage = s.passage := rfl
@[simp] theorem State.withIntake_registry (p : Port) (m : MatIntake) : (s.withIntake p m).registry = s.registry := rfl
@[simp] theorem State.withIntake_park (p : Port) (m : MatIntake) : (s.withIntake p m).park = s.park := rfl
@[simp] theorem State.withIntake_screens (p : Port) (m : MatIntake) : (s.withIntake p m).screens = s.screens := rfl
@[simp] theorem State.withIntake_control (p : Port) (m : MatIntake) : (s.withIntake p m).control = s.control := rfl
@[simp] theorem State.withIntake_tally (p : Port) (m : MatIntake) : (s.withIntake p m).tally = s.tally := rfl
@[simp] theorem State.withIntake_store (p : Port) (m : MatIntake) : (s.withIntake p m).store = s.store := rfl
@[simp] theorem State.withIntake_startUp (p : Port) (m : MatIntake) : (s.withIntake p m).startUp = s.startUp := rfl
@[simp] theorem State.withIntake_restartDue (p : Port) (m : MatIntake) : (s.withIntake p m).restartDue = s.restartDue := rfl
@[simp] theorem State.withIntake_elapsed (p : Port) (m : MatIntake) : (s.withIntake p m).elapsed = s.elapsed := rfl
@[simp] theorem State.withIntake_sent (p : Port) (m : MatIntake) : (s.withIntake p m).sent = s.sent := rfl
@[simp] theorem State.withIntake_pending (p : Port) (m : MatIntake) : (s.withIntake p m).pending = s.pending := rfl

/-! ## withAlign -/

@[simp] theorem State.withAlign_clock (p : Port) (a : Alignment) : (s.withAlign p a).clock = s.clock := rfl
@[simp] theorem State.withAlign_intake (p : Port) (a : Alignment) : (s.withAlign p a).intake = s.intake := rfl
@[simp] theorem State.withAlign_align (p : Port) (a : Alignment) : (s.withAlign p a).align = s.align.set p a := rfl
@[simp] theorem State.withAlign_passage (p : Port) (a : Alignment) : (s.withAlign p a).passage = s.passage := rfl
@[simp] theorem State.withAlign_registry (p : Port) (a : Alignment) : (s.withAlign p a).registry = s.registry := rfl
@[simp] theorem State.withAlign_park (p : Port) (a : Alignment) : (s.withAlign p a).park = s.park := rfl
@[simp] theorem State.withAlign_screens (p : Port) (a : Alignment) : (s.withAlign p a).screens = s.screens := rfl
@[simp] theorem State.withAlign_control (p : Port) (a : Alignment) : (s.withAlign p a).control = s.control := rfl
@[simp] theorem State.withAlign_tally (p : Port) (a : Alignment) : (s.withAlign p a).tally = s.tally := rfl
@[simp] theorem State.withAlign_store (p : Port) (a : Alignment) : (s.withAlign p a).store = s.store := rfl
@[simp] theorem State.withAlign_startUp (p : Port) (a : Alignment) : (s.withAlign p a).startUp = s.startUp := rfl
@[simp] theorem State.withAlign_restartDue (p : Port) (a : Alignment) : (s.withAlign p a).restartDue = s.restartDue := rfl
@[simp] theorem State.withAlign_elapsed (p : Port) (a : Alignment) : (s.withAlign p a).elapsed = s.elapsed := rfl
@[simp] theorem State.withAlign_sent (p : Port) (a : Alignment) : (s.withAlign p a).sent = s.sent := rfl
@[simp] theorem State.withAlign_pending (p : Port) (a : Alignment) : (s.withAlign p a).pending = s.pending := rfl

/-! ## withPassage -/

@[simp] theorem State.withPassage_clock (u : PassageUnit) : (s.withPassage u).clock = s.clock := rfl
@[simp] theorem State.withPassage_intake (u : PassageUnit) : (s.withPassage u).intake = s.intake := rfl
@[simp] theorem State.withPassage_align (u : PassageUnit) : (s.withPassage u).align = s.align := rfl
@[simp] theorem State.withPassage_passage (u : PassageUnit) : (s.withPassage u).passage = u := rfl
@[simp] theorem State.withPassage_registry (u : PassageUnit) : (s.withPassage u).registry = s.registry := rfl
@[simp] theorem State.withPassage_park (u : PassageUnit) : (s.withPassage u).park = s.park := rfl
@[simp] theorem State.withPassage_screens (u : PassageUnit) : (s.withPassage u).screens = s.screens := rfl
@[simp] theorem State.withPassage_control (u : PassageUnit) : (s.withPassage u).control = s.control := rfl
@[simp] theorem State.withPassage_tally (u : PassageUnit) : (s.withPassage u).tally = s.tally := rfl
@[simp] theorem State.withPassage_store (u : PassageUnit) : (s.withPassage u).store = s.store := rfl
@[simp] theorem State.withPassage_startUp (u : PassageUnit) : (s.withPassage u).startUp = s.startUp := rfl
@[simp] theorem State.withPassage_restartDue (u : PassageUnit) : (s.withPassage u).restartDue = s.restartDue := rfl
@[simp] theorem State.withPassage_elapsed (u : PassageUnit) : (s.withPassage u).elapsed = s.elapsed := rfl
@[simp] theorem State.withPassage_sent (u : PassageUnit) : (s.withPassage u).sent = s.sent := rfl
@[simp] theorem State.withPassage_pending (u : PassageUnit) : (s.withPassage u).pending = s.pending := rfl

/-! ## withPassages -/

@[simp] theorem State.withPassages_clock (p : Port) (l : List Passage) : (s.withPassages p l).clock = s.clock := rfl
@[simp] theorem State.withPassages_intake (p : Port) (l : List Passage) : (s.withPassages p l).intake = s.intake := rfl
@[simp] theorem State.withPassages_align (p : Port) (l : List Passage) : (s.withPassages p l).align = s.align := rfl
@[simp] theorem State.withPassages_passage (p : Port) (l : List Passage) : (s.withPassages p l).passage = { s.passage with lists := s.passage.lists.set p l } := rfl
@[simp] theorem State.withPassages_registry (p : Port) (l : List Passage) : (s.withPassages p l).registry = s.registry := rfl
@[simp] theorem State.withPassages_park (p : Port) (l : List Passage) : (s.withPassages p l).park = s.park := rfl
@[simp] theorem State.withPassages_screens (p : Port) (l : List Passage) : (s.withPassages p l).screens = s.screens := rfl
@[simp] theorem State.withPassages_control (p : Port) (l : List Passage) : (s.withPassages p l).control = s.control := rfl
@[simp] theorem State.withPassages_tally (p : Port) (l : List Passage) : (s.withPassages p l).tally = s.tally := rfl
@[simp] theorem State.withPassages_store (p : Port) (l : List Passage) : (s.withPassages p l).store = s.store := rfl
@[simp] theorem State.withPassages_startUp (p : Port) (l : List Passage) : (s.withPassages p l).startUp = s.startUp := rfl
@[simp] theorem State.withPassages_restartDue (p : Port) (l : List Passage) : (s.withPassages p l).restartDue = s.restartDue := rfl
@[simp] theorem State.withPassages_elapsed (p : Port) (l : List Passage) : (s.withPassages p l).elapsed = s.elapsed := rfl
@[simp] theorem State.withPassages_sent (p : Port) (l : List Passage) : (s.withPassages p l).sent = s.sent := rfl
@[simp] theorem State.withPassages_pending (p : Port) (l : List Passage) : (s.withPassages p l).pending = s.pending := rfl

/-! ## withHeld -/

@[simp] theorem State.withHeld_clock (h : Option HeldRead) : (s.withHeld h).clock = s.clock := rfl
@[simp] theorem State.withHeld_intake (h : Option HeldRead) : (s.withHeld h).intake = s.intake := rfl
@[simp] theorem State.withHeld_align (h : Option HeldRead) : (s.withHeld h).align = s.align := rfl
@[simp] theorem State.withHeld_passage (h : Option HeldRead) : (s.withHeld h).passage = { s.passage with held := h } := rfl
@[simp] theorem State.withHeld_registry (h : Option HeldRead) : (s.withHeld h).registry = s.registry := rfl
@[simp] theorem State.withHeld_park (h : Option HeldRead) : (s.withHeld h).park = s.park := rfl
@[simp] theorem State.withHeld_screens (h : Option HeldRead) : (s.withHeld h).screens = s.screens := rfl
@[simp] theorem State.withHeld_control (h : Option HeldRead) : (s.withHeld h).control = s.control := rfl
@[simp] theorem State.withHeld_tally (h : Option HeldRead) : (s.withHeld h).tally = s.tally := rfl
@[simp] theorem State.withHeld_store (h : Option HeldRead) : (s.withHeld h).store = s.store := rfl
@[simp] theorem State.withHeld_startUp (h : Option HeldRead) : (s.withHeld h).startUp = s.startUp := rfl
@[simp] theorem State.withHeld_restartDue (h : Option HeldRead) : (s.withHeld h).restartDue = s.restartDue := rfl
@[simp] theorem State.withHeld_elapsed (h : Option HeldRead) : (s.withHeld h).elapsed = s.elapsed := rfl
@[simp] theorem State.withHeld_sent (h : Option HeldRead) : (s.withHeld h).sent = s.sent := rfl
@[simp] theorem State.withHeld_pending (h : Option HeldRead) : (s.withHeld h).pending = s.pending := rfl

/-! ## withRegistry -/

@[simp] theorem State.withRegistry_clock (r : Registry) : (s.withRegistry r).clock = s.clock := rfl
@[simp] theorem State.withRegistry_intake (r : Registry) : (s.withRegistry r).intake = s.intake := rfl
@[simp] theorem State.withRegistry_align (r : Registry) : (s.withRegistry r).align = s.align := rfl
@[simp] theorem State.withRegistry_passage (r : Registry) : (s.withRegistry r).passage = s.passage := rfl
@[simp] theorem State.withRegistry_registry (r : Registry) : (s.withRegistry r).registry = r := rfl
@[simp] theorem State.withRegistry_park (r : Registry) : (s.withRegistry r).park = s.park := rfl
@[simp] theorem State.withRegistry_screens (r : Registry) : (s.withRegistry r).screens = s.screens := rfl
@[simp] theorem State.withRegistry_control (r : Registry) : (s.withRegistry r).control = s.control := rfl
@[simp] theorem State.withRegistry_tally (r : Registry) : (s.withRegistry r).tally = s.tally := rfl
@[simp] theorem State.withRegistry_store (r : Registry) : (s.withRegistry r).store = s.store := rfl
@[simp] theorem State.withRegistry_startUp (r : Registry) : (s.withRegistry r).startUp = s.startUp := rfl
@[simp] theorem State.withRegistry_restartDue (r : Registry) : (s.withRegistry r).restartDue = s.restartDue := rfl
@[simp] theorem State.withRegistry_elapsed (r : Registry) : (s.withRegistry r).elapsed = s.elapsed := rfl
@[simp] theorem State.withRegistry_sent (r : Registry) : (s.withRegistry r).sent = s.sent := rfl
@[simp] theorem State.withRegistry_pending (r : Registry) : (s.withRegistry r).pending = s.pending := rfl

/-! ## withPark -/

@[simp] theorem State.withPark_clock (l : List ParkEntry) : (s.withPark l).clock = s.clock := rfl
@[simp] theorem State.withPark_intake (l : List ParkEntry) : (s.withPark l).intake = s.intake := rfl
@[simp] theorem State.withPark_align (l : List ParkEntry) : (s.withPark l).align = s.align := rfl
@[simp] theorem State.withPark_passage (l : List ParkEntry) : (s.withPark l).passage = s.passage := rfl
@[simp] theorem State.withPark_registry (l : List ParkEntry) : (s.withPark l).registry = s.registry := rfl
@[simp] theorem State.withPark_park (l : List ParkEntry) : (s.withPark l).park = l := rfl
@[simp] theorem State.withPark_screens (l : List ParkEntry) : (s.withPark l).screens = s.screens := rfl
@[simp] theorem State.withPark_control (l : List ParkEntry) : (s.withPark l).control = s.control := rfl
@[simp] theorem State.withPark_tally (l : List ParkEntry) : (s.withPark l).tally = s.tally := rfl
@[simp] theorem State.withPark_store (l : List ParkEntry) : (s.withPark l).store = s.store := rfl
@[simp] theorem State.withPark_startUp (l : List ParkEntry) : (s.withPark l).startUp = s.startUp := rfl
@[simp] theorem State.withPark_restartDue (l : List ParkEntry) : (s.withPark l).restartDue = s.restartDue := rfl
@[simp] theorem State.withPark_elapsed (l : List ParkEntry) : (s.withPark l).elapsed = s.elapsed := rfl
@[simp] theorem State.withPark_sent (l : List ParkEntry) : (s.withPark l).sent = s.sent := rfl
@[simp] theorem State.withPark_pending (l : List ParkEntry) : (s.withPark l).pending = s.pending := rfl

/-! ## withScreen -/

@[simp] theorem State.withScreen_clock (k : ScreenNo) (x : Screen) : (s.withScreen k x).clock = s.clock := rfl
@[simp] theorem State.withScreen_intake (k : ScreenNo) (x : Screen) : (s.withScreen k x).intake = s.intake := rfl
@[simp] theorem State.withScreen_align (k : ScreenNo) (x : Screen) : (s.withScreen k x).align = s.align := rfl
@[simp] theorem State.withScreen_passage (k : ScreenNo) (x : Screen) : (s.withScreen k x).passage = s.passage := rfl
@[simp] theorem State.withScreen_registry (k : ScreenNo) (x : Screen) : (s.withScreen k x).registry = s.registry := rfl
@[simp] theorem State.withScreen_park (k : ScreenNo) (x : Screen) : (s.withScreen k x).park = s.park := rfl
@[simp] theorem State.withScreen_screens (k : ScreenNo) (x : Screen) : (s.withScreen k x).screens = s.screens.set k x := rfl
@[simp] theorem State.withScreen_control (k : ScreenNo) (x : Screen) : (s.withScreen k x).control = s.control := rfl
@[simp] theorem State.withScreen_tally (k : ScreenNo) (x : Screen) : (s.withScreen k x).tally = s.tally := rfl
@[simp] theorem State.withScreen_store (k : ScreenNo) (x : Screen) : (s.withScreen k x).store = s.store := rfl
@[simp] theorem State.withScreen_startUp (k : ScreenNo) (x : Screen) : (s.withScreen k x).startUp = s.startUp := rfl
@[simp] theorem State.withScreen_restartDue (k : ScreenNo) (x : Screen) : (s.withScreen k x).restartDue = s.restartDue := rfl
@[simp] theorem State.withScreen_elapsed (k : ScreenNo) (x : Screen) : (s.withScreen k x).elapsed = s.elapsed := rfl
@[simp] theorem State.withScreen_sent (k : ScreenNo) (x : Screen) : (s.withScreen k x).sent = s.sent := rfl
@[simp] theorem State.withScreen_pending (k : ScreenNo) (x : Screen) : (s.withScreen k x).pending = s.pending := rfl

/-! ## withControl -/

@[simp] theorem State.withControl_clock (c : ControlUnit) : (s.withControl c).clock = s.clock := rfl
@[simp] theorem State.withControl_intake (c : ControlUnit) : (s.withControl c).intake = s.intake := rfl
@[simp] theorem State.withControl_align (c : ControlUnit) : (s.withControl c).align = s.align := rfl
@[simp] theorem State.withControl_passage (c : ControlUnit) : (s.withControl c).passage = s.passage := rfl
@[simp] theorem State.withControl_registry (c : ControlUnit) : (s.withControl c).registry = s.registry := rfl
@[simp] theorem State.withControl_park (c : ControlUnit) : (s.withControl c).park = s.park := rfl
@[simp] theorem State.withControl_screens (c : ControlUnit) : (s.withControl c).screens = s.screens := rfl
@[simp] theorem State.withControl_control (c : ControlUnit) : (s.withControl c).control = c := rfl
@[simp] theorem State.withControl_tally (c : ControlUnit) : (s.withControl c).tally = s.tally := rfl
@[simp] theorem State.withControl_store (c : ControlUnit) : (s.withControl c).store = s.store := rfl
@[simp] theorem State.withControl_startUp (c : ControlUnit) : (s.withControl c).startUp = s.startUp := rfl
@[simp] theorem State.withControl_restartDue (c : ControlUnit) : (s.withControl c).restartDue = s.restartDue := rfl
@[simp] theorem State.withControl_elapsed (c : ControlUnit) : (s.withControl c).elapsed = s.elapsed := rfl
@[simp] theorem State.withControl_sent (c : ControlUnit) : (s.withControl c).sent = s.sent := rfl
@[simp] theorem State.withControl_pending (c : ControlUnit) : (s.withControl c).pending = s.pending := rfl

/-! ## withTally -/

@[simp] theorem State.withTally_clock (t : TallyUnit) : (s.withTally t).clock = s.clock := rfl
@[simp] theorem State.withTally_intake (t : TallyUnit) : (s.withTally t).intake = s.intake := rfl
@[simp] theorem State.withTally_align (t : TallyUnit) : (s.withTally t).align = s.align := rfl
@[simp] theorem State.withTally_passage (t : TallyUnit) : (s.withTally t).passage = s.passage := rfl
@[simp] theorem State.withTally_registry (t : TallyUnit) : (s.withTally t).registry = s.registry := rfl
@[simp] theorem State.withTally_park (t : TallyUnit) : (s.withTally t).park = s.park := rfl
@[simp] theorem State.withTally_screens (t : TallyUnit) : (s.withTally t).screens = s.screens := rfl
@[simp] theorem State.withTally_control (t : TallyUnit) : (s.withTally t).control = s.control := rfl
@[simp] theorem State.withTally_tally (t : TallyUnit) : (s.withTally t).tally = t := rfl
@[simp] theorem State.withTally_store (t : TallyUnit) : (s.withTally t).store = s.store := rfl
@[simp] theorem State.withTally_startUp (t : TallyUnit) : (s.withTally t).startUp = s.startUp := rfl
@[simp] theorem State.withTally_restartDue (t : TallyUnit) : (s.withTally t).restartDue = s.restartDue := rfl
@[simp] theorem State.withTally_elapsed (t : TallyUnit) : (s.withTally t).elapsed = s.elapsed := rfl
@[simp] theorem State.withTally_sent (t : TallyUnit) : (s.withTally t).sent = s.sent := rfl
@[simp] theorem State.withTally_pending (t : TallyUnit) : (s.withTally t).pending = s.pending := rfl

/-! ## withStore -/

@[simp] theorem State.withStore_clock (x : SettingsStore) : (s.withStore x).clock = s.clock := rfl
@[simp] theorem State.withStore_intake (x : SettingsStore) : (s.withStore x).intake = s.intake := rfl
@[simp] theorem State.withStore_align (x : SettingsStore) : (s.withStore x).align = s.align := rfl
@[simp] theorem State.withStore_passage (x : SettingsStore) : (s.withStore x).passage = s.passage := rfl
@[simp] theorem State.withStore_registry (x : SettingsStore) : (s.withStore x).registry = s.registry := rfl
@[simp] theorem State.withStore_park (x : SettingsStore) : (s.withStore x).park = s.park := rfl
@[simp] theorem State.withStore_screens (x : SettingsStore) : (s.withStore x).screens = s.screens := rfl
@[simp] theorem State.withStore_control (x : SettingsStore) : (s.withStore x).control = s.control := rfl
@[simp] theorem State.withStore_tally (x : SettingsStore) : (s.withStore x).tally = s.tally := rfl
@[simp] theorem State.withStore_store (x : SettingsStore) : (s.withStore x).store = x := rfl
@[simp] theorem State.withStore_startUp (x : SettingsStore) : (s.withStore x).startUp = s.startUp := rfl
@[simp] theorem State.withStore_restartDue (x : SettingsStore) : (s.withStore x).restartDue = s.restartDue := rfl
@[simp] theorem State.withStore_elapsed (x : SettingsStore) : (s.withStore x).elapsed = s.elapsed := rfl
@[simp] theorem State.withStore_sent (x : SettingsStore) : (s.withStore x).sent = s.sent := rfl
@[simp] theorem State.withStore_pending (x : SettingsStore) : (s.withStore x).pending = s.pending := rfl

/-! ## transmit -/

@[simp] theorem State.transmit_clock (m : Sent) : (s.transmit m).clock = s.clock := rfl
@[simp] theorem State.transmit_intake (m : Sent) : (s.transmit m).intake = s.intake := rfl
@[simp] theorem State.transmit_align (m : Sent) : (s.transmit m).align = s.align := rfl
@[simp] theorem State.transmit_passage (m : Sent) : (s.transmit m).passage = s.passage := rfl
@[simp] theorem State.transmit_registry (m : Sent) : (s.transmit m).registry = s.registry := rfl
@[simp] theorem State.transmit_park (m : Sent) : (s.transmit m).park = s.park := rfl
@[simp] theorem State.transmit_screens (m : Sent) : (s.transmit m).screens = s.screens := rfl
@[simp] theorem State.transmit_control (m : Sent) : (s.transmit m).control = s.control := rfl
@[simp] theorem State.transmit_tally (m : Sent) : (s.transmit m).tally = s.tally := rfl
@[simp] theorem State.transmit_store (m : Sent) : (s.transmit m).store = s.store := rfl
@[simp] theorem State.transmit_startUp (m : Sent) : (s.transmit m).startUp = s.startUp := rfl
@[simp] theorem State.transmit_restartDue (m : Sent) : (s.transmit m).restartDue = s.restartDue := rfl
@[simp] theorem State.transmit_elapsed (m : Sent) : (s.transmit m).elapsed = s.elapsed := rfl
@[simp] theorem State.transmit_sent (m : Sent) : (s.transmit m).sent = s.sent ++ [m] := rfl
@[simp] theorem State.transmit_pending (m : Sent) : (s.transmit m).pending = s.pending := rfl

/-! ## withLink -/

@[simp] theorem State.withLink_clock (l : Side) (x : ControlLink) : (s.withLink l x).clock = s.clock := rfl
@[simp] theorem State.withLink_intake (l : Side) (x : ControlLink) : (s.withLink l x).intake = s.intake := rfl
@[simp] theorem State.withLink_align (l : Side) (x : ControlLink) : (s.withLink l x).align = s.align := rfl
@[simp] theorem State.withLink_passage (l : Side) (x : ControlLink) : (s.withLink l x).passage = s.passage := rfl
@[simp] theorem State.withLink_registry (l : Side) (x : ControlLink) : (s.withLink l x).registry = s.registry := rfl
@[simp] theorem State.withLink_park (l : Side) (x : ControlLink) : (s.withLink l x).park = s.park := rfl
@[simp] theorem State.withLink_screens (l : Side) (x : ControlLink) : (s.withLink l x).screens = s.screens := rfl
@[simp] theorem State.withLink_control (l : Side) (x : ControlLink) : (s.withLink l x).control = s.control.setLink l x := rfl
@[simp] theorem State.withLink_tally (l : Side) (x : ControlLink) : (s.withLink l x).tally = s.tally := rfl
@[simp] theorem State.withLink_store (l : Side) (x : ControlLink) : (s.withLink l x).store = s.store := rfl
@[simp] theorem State.withLink_startUp (l : Side) (x : ControlLink) : (s.withLink l x).startUp = s.startUp := rfl
@[simp] theorem State.withLink_restartDue (l : Side) (x : ControlLink) : (s.withLink l x).restartDue = s.restartDue := rfl
@[simp] theorem State.withLink_elapsed (l : Side) (x : ControlLink) : (s.withLink l x).elapsed = s.elapsed := rfl
@[simp] theorem State.withLink_sent (l : Side) (x : ControlLink) : (s.withLink l x).sent = s.sent := rfl
@[simp] theorem State.withLink_pending (l : Side) (x : ControlLink) : (s.withLink l x).pending = s.pending := rfl

/-! ## Reading what was written -/

/-- The port that was written reads as written. -/
@[simp] theorem State.withIntake_same (p : Port) (m : MatIntake) : (s.withIntake p m).intake[p] = m := by
  simp [State.withIntake]

/-- Another port reads as before. -/
theorem State.withIntake_other {p q : Port} (m : MatIntake) (h : q ≠ p) :
    (s.withIntake p m).intake[q] = s.intake[q] := by
  simp only [State.withIntake, Fin.getElem_fin]
  exact Vector.getElem_set_ne _ _ (fun e => h (Fin.ext e.symm))

/-- The port that was written reads as written. -/
@[simp] theorem State.withAlign_same (p : Port) (a : Alignment) : (s.withAlign p a).align[p] = a := by
  simp [State.withAlign]

/-- Another port reads as before. -/
theorem State.withAlign_other {p q : Port} (a : Alignment) (h : q ≠ p) :
    (s.withAlign p a).align[q] = s.align[q] := by
  simp only [State.withAlign, Fin.getElem_fin]
  exact Vector.getElem_set_ne _ _ (fun e => h (Fin.ext e.symm))

/-- The screen that was written reads as written. -/
@[simp] theorem State.withScreen_same (k : ScreenNo) (x : Screen) : (s.withScreen k x).screens[k] = x := by
  simp [State.withScreen]

/-- Another screen reads as before. -/
theorem State.withScreen_other {k j : ScreenNo} (x : Screen) (h : j ≠ k) :
    (s.withScreen k x).screens[j] = s.screens[j] := by
  simp only [State.withScreen, Fin.getElem_fin]
  exact Vector.getElem_set_ne _ _ (fun e => h (Fin.ext e.symm))

/-- The passage list that was written reads as written. -/
@[simp] theorem State.withPassages_same (p : Port) (l : List Passage) :
    (s.withPassages p l).passage.lists[p] = l := by
  simp [State.withPassages, State.withPassage]

/-- Another port's passage list reads as before. -/
theorem State.withPassages_other {p q : Port} (l : List Passage) (h : q ≠ p) :
    (s.withPassages p l).passage.lists[q] = s.passage.lists[q] := by
  simp only [State.withPassages, State.withPassage, Fin.getElem_fin]
  exact Vector.getElem_set_ne _ _ (fun e => h (Fin.ext e.symm))

/-- The link that was written reads as written. -/
@[simp] theorem ControlUnit.linkOf_setLink (c : ControlUnit) (l : Side) (x : ControlLink) :
    (c.setLink l x).linkOf l = x := by cases l <;> rfl

/-- The other link reads as before. -/
theorem ControlUnit.linkOf_setLink_other {l k : Side} (c : ControlUnit) (x : ControlLink) (h : k ≠ l) :
    (c.setLink l x).linkOf k = c.linkOf k := by cases l <;> cases k <;> first | rfl | exact absurd rfl h

@[simp] theorem ControlUnit.setLink_token (c : ControlUnit) (l : Side) (x : ControlLink) :
    (c.setLink l x).token = c.token := by cases l <;> rfl
@[simp] theorem ControlUnit.setLink_claim (c : ControlUnit) (l : Side) (x : ControlLink) :
    (c.setLink l x).claim = c.claim := by cases l <;> rfl
@[simp] theorem ControlUnit.setLink_watchList (c : ControlUnit) (l : Side) (x : ControlLink) :
    (c.setLink l x).watchList = c.watchList := by cases l <;> rfl
@[simp] theorem ControlUnit.setLink_watchLog (c : ControlUnit) (l : Side) (x : ControlLink) :
    (c.setLink l x).watchLog = c.watchLog := by cases l <;> rfl
@[simp] theorem ControlUnit.setLink_overflow (c : ControlUnit) (l : Side) (x : ControlLink) :
    (c.setLink l x).overflow = c.overflow := by cases l <;> rfl
@[simp] theorem ControlUnit.setLink_resetCause (c : ControlUnit) (l : Side) (x : ControlLink) :
    (c.setLink l x).resetCause = c.resetCause := by cases l <;> rfl

/-- Control link `l` after it was written. -/
@[simp] theorem State.controlLink_withLink (l : Side) (x : ControlLink) : (s.withLink l x).controlLink l = x := by
  simp [State.controlLink]

/-- The other control link reads as before. -/
theorem State.controlLink_withLink_other {l k : Side} (x : ControlLink) (h : k ≠ l) :
    (s.withLink l x).controlLink k = s.controlLink k := by
  simp [State.controlLink, ControlUnit.linkOf_setLink_other _ _ h]

end Sys2Proof.Machine
end

