-- ==== Sys2Proof/Laws/Marks.lean ====
section
/-! SUPPORT. What raising a condition and counting a tally event can do: they write the pending sets and the Tally Unit
and nothing else. -/

namespace Sys2Proof.Machine

/-- `t` differs from `s` in the pending sets of the two links and in the Tally Unit alone. -/
structure MarksOnly (s t : State) : Prop where
  clock : t.clock = s.clock
  intake : t.intake = s.intake
  align : t.align = s.align
  passage : t.passage = s.passage
  registry : t.registry = s.registry
  park : t.park = s.park
  screens : t.screens = s.screens
  store : t.store = s.store
  startUp : t.startUp = s.startUp
  restartDue : t.restartDue = s.restartDue
  elapsed : t.elapsed = s.elapsed
  sent : t.sent = s.sent
  pending : t.pending = s.pending
  token : t.control.token = s.control.token
  claim : t.control.claim = s.control.claim
  watchList : t.control.watchList = s.control.watchList
  watchLog : t.control.watchLog = s.control.watchLog
  overflow : t.control.overflow = s.control.overflow
  resetCause : t.control.resetCause = s.control.resetCause
  link : ∀ l, (t.controlLink l).link = (s.controlLink l).link
  timer : ∀ l, (t.controlLink l).timer = (s.controlLink l).timer
  inProgress : ∀ l, (t.controlLink l).inProgress = (s.controlLink l).inProgress
  mask : ∀ l, (t.controlLink l).mask = (s.controlLink l).mask

namespace MarksOnly

theorem refl (s : State) : MarksOnly s s := by constructor <;> intros <;> rfl

theorem trans {s t u : State} (h : MarksOnly s t) (k : MarksOnly t u) : MarksOnly s u where
  clock := k.clock.trans h.clock
  intake := k.intake.trans h.intake
  align := k.align.trans h.align
  passage := k.passage.trans h.passage
  registry := k.registry.trans h.registry
  park := k.park.trans h.park
  screens := k.screens.trans h.screens
  store := k.store.trans h.store
  startUp := k.startUp.trans h.startUp
  restartDue := k.restartDue.trans h.restartDue
  elapsed := k.elapsed.trans h.elapsed
  sent := k.sent.trans h.sent
  pending := k.pending.trans h.pending
  token := k.token.trans h.token
  claim := k.claim.trans h.claim
  watchList := k.watchList.trans h.watchList
  watchLog := k.watchLog.trans h.watchLog
  overflow := k.overflow.trans h.overflow
  resetCause := k.resetCause.trans h.resetCause
  link := fun l => (k.link l).trans (h.link l)
  timer := fun l => (k.timer l).trans (h.timer l)
  inProgress := fun l => (k.inProgress l).trans (h.inProgress l)
  mask := fun l => (k.mask l).trans (h.mask l)

end MarksOnly

/-- Writing the Tally Unit alone. -/
theorem State.withTally_marks (s : State) (t : TallyUnit) : MarksOnly s (s.withTally t) := by
  constructor <;> intros <;> rfl

theorem State.addPending_marks (s : State) (l : Side) (c : Condition) : MarksOnly s (s.addPending l c) := by
  constructor <;> intros <;> first | rfl | (cases l <;> first | rfl | (rename_i k; cases k <;> rfl))

theorem State.offerTrigger_marks (s : State) (c : Condition) : MarksOnly s (s.offerTrigger c) := by
  unfold State.offerTrigger
  split
  · exact s.withTally_marks _
  · exact .refl s

theorem State.raiseTo_marks (s : State) (l : Side) (c : Condition) : MarksOnly s (s.raiseTo l c) :=
  (s.addPending_marks l c).trans (State.offerTrigger_marks _ c)

theorem State.raise_marks (s : State) (c : Condition) : MarksOnly s (s.raise c) :=
  ((s.addPending_marks .a c).trans (State.addPending_marks _ .b c)).trans (State.offerTrigger_marks _ c)

theorem State.raiseIf_marks (s : State) (b : Bool) (c : Condition) : MarksOnly s (s.raiseIf b c) := by
  unfold State.raiseIf
  split
  · exact s.raise_marks c
  · exact .refl s

theorem State.count_marks (s : State) (c : TallyClass) (q : Nat) : MarksOnly s (s.count c q) := by
  simp only [State.count]
  split
  · exact .refl s
  · split
    · exact ((s.withTally_marks _).trans (State.raiseIf_marks _ _ _)).trans (State.withTally_marks _ _)
    · exact (s.withTally_marks _).trans (State.raiseIf_marks _ _ _)

theorem State.countTimes_marks (s : State) (c : TallyClass) (q n : Nat) : MarksOnly s (s.countTimes c q n) := by
  induction n generalizing s with
  | zero => exact .refl s
  | succ n ih => exact (s.count_marks c q).trans (ih _)

theorem State.countAll_marks (s : State) (cs : List TallyClass) (q : Nat) : MarksOnly s (s.countAll cs q) := by
  unfold State.countAll
  induction cs generalizing s with
  | nil => exact .refl s
  | cons c cs ih => exact (s.count_marks c q).trans (ih _)

/-! ## What a raise leaves pending -/

/-- A condition is one of the eighteen. -/
theorem Condition.mem_all (c : Condition) : c ∈ Condition.all := by cases c <;> decide

/-- A condition added to a set is a member of it. -/
theorem CondSet.mem_add (x : CondSet) (c d : Condition) : d ∈ CondSet.add x c ↔ d = c ∨ d ∈ x := by
  simp [CondSet.add, CondSet.ofList, Condition.mem_all, List.mem_filter]

/-- What is left of a set is what was not taken away. -/
theorem CondSet.mem_minus (x y : CondSet) (d : Condition) : d ∈ CondSet.minus x y ↔ d ∈ x ∧ d ∉ y := by
  simp [CondSet.minus, List.mem_filter]

/-- Freezing on a trigger leaves the links as they are. -/
@[simp] theorem State.offerTrigger_control (s : State) (c : Condition) : (s.offerTrigger c).control = s.control := by
  unfold State.offerTrigger; split <;> rfl

/-- A condition raised to one link joins its pending set (R168). -/
theorem State.raiseTo_pending (s : State) (l : Side) (c d : Condition) :
    d ∈ ((s.raiseTo l c).controlLink l).pending ↔ d = c ∨ d ∈ (s.controlLink l).pending := by
  simp [State.raiseTo, State.controlLink, State.addPending, CondSet.mem_add]

/-- A condition raised to both links joins both pending sets (R168). -/
theorem State.raise_pending (s : State) (l : Side) (c d : Condition) :
    d ∈ ((s.raise c).controlLink l).pending ↔ d = c ∨ d ∈ (s.controlLink l).pending := by
  cases l <;> simp [State.raise, State.controlLink, State.addPending, CondSet.mem_add, ControlUnit.linkOf,
    ControlUnit.setLink, State.withLink, State.withControl]

/-- Offering a condition to the freeze trigger set freezes the unit when it is a member (R179). -/
theorem State.offerTrigger_eq (s : State) (c : Condition) : s.offerTrigger c =
    { s with tally := { s.tally with frozen := s.tally.frozen || s.tally.triggers.contains c } } := by
  unfold State.offerTrigger
  split
  · rename_i h; rw [h, Bool.or_true]; rfl
  · rename_i h; rw [Bool.not_eq_true] at h; rw [h, Bool.or_false]

/-- Everything a raise to one link does (R168, R179). -/
theorem State.raiseTo_eq (s : State) (l : Side) (c : Condition) : s.raiseTo l c = { s with
    control := s.control.setLink l { s.controlLink l with pending := CondSet.add (s.controlLink l).pending c }
    tally := { s.tally with frozen := s.tally.frozen || s.tally.triggers.contains c } } :=
  State.offerTrigger_eq _ c

/-- Everything a raise to both links does (R168, R179). -/
theorem State.raise_eq (s : State) (c : Condition) : s.raise c = { s with
    control := { s.control with
      linkA := { s.control.linkA with pending := CondSet.add s.control.linkA.pending c }
      linkB := { s.control.linkB with pending := CondSet.add s.control.linkB.pending c } }
    tally := { s.tally with frozen := s.tally.frozen || s.tally.triggers.contains c } } :=
  State.offerTrigger_eq _ c

/-! ## What marks leave alone -/

/-- `g` updates a field other than the Control Unit and the Tally Unit, so that marking commutes with it. -/
structure Aside (g : State → State) : Prop where
  withTally : ∀ s t, g (s.withTally t) = (g s).withTally t
  withControl : ∀ s c, g (s.withControl c) = (g s).withControl c
  tally : ∀ s, (g s).tally = s.tally
  control : ∀ s, (g s).control = s.control

namespace Aside

theorem controlLink {g : State → State} (a : Aside g) (s : State) (l : Side) :
    (g s).controlLink l = s.controlLink l := by unfold State.controlLink; rw [a.control]

theorem raise {g : State → State} (a : Aside g) (s : State) (c : Condition) : (g s).raise c = g (s.raise c) := by
  have add : ∀ t l, (g t).addPending l c = g (t.addPending l c) := fun t l => by
    simp only [State.addPending, State.withLink, a.controlLink, a.control, a.withControl]
  have offer : ∀ t, (g t).offerTrigger c = g (t.offerTrigger c) := fun t => by
    simp only [State.offerTrigger, a.tally]
    split <;> simp [a.withTally]
  simp only [State.raise, add, offer]

theorem raiseIf {g : State → State} (a : Aside g) (s : State) (b : Bool) (c : Condition) :
    (g s).raiseIf b c = g (s.raiseIf b c) := by
  simp only [State.raiseIf, a.raise]
  split <;> rfl

theorem count {g : State → State} (a : Aside g) (s : State) (c : TallyClass) (q : Nat) :
    (g s).count c q = g (s.count c q) := by
  unfold State.count
  simp only [a.tally]
  split
  · rfl
  · rw [← a.withTally, a.raiseIf]
    split
    · simp only [a.withTally, a.tally]
    · rfl

theorem countTimes {g : State → State} (a : Aside g) (c : TallyClass) (q n : Nat) (s : State) :
    (g s).countTimes c q n = g (s.countTimes c q n) := by
  induction n generalizing s with
  | zero => rfl
  | succ n ih => simp only [State.countTimes, a.count, ih]

theorem countAll {g : State → State} (a : Aside g) (cs : List TallyClass) (q : Nat) (s : State) :
    (g s).countAll cs q = g (s.countAll cs q) := by
  induction cs generalizing s with
  | nil => rfl
  | cons c cs ih =>
    simp only [State.countAll, List.foldl_cons, a.count] at ih ⊢
    rw [ih]

end Aside

theorem State.withIntake_aside (p : Port) (m : MatIntake) : Aside fun s => s.withIntake p m := by
  constructor <;> intros <;> rfl

theorem State.withScreen_aside (k : ScreenNo) (x : Screen) : Aside fun s => s.withScreen k x := by
  constructor <;> intros <;> rfl

/-- The pending sets of `t` hold what those of `s` hold. -/
def PendingGrows (s t : State) : Prop := ∀ l c, c ∈ (s.controlLink l).pending → c ∈ (t.controlLink l).pending

namespace PendingGrows

theorem refl (s : State) : PendingGrows s s := fun _ _ h => h

theorem trans {s t u : State} (h : PendingGrows s t) (k : PendingGrows t u) : PendingGrows s u :=
  fun l c x => k l c (h l c x)

theorem of_control {s t : State} (h : t.control = s.control) : PendingGrows s t := by
  intro l c x
  unfold State.controlLink
  rw [h]
  exact x

end PendingGrows

theorem State.raise_grows (s : State) (c : Condition) : PendingGrows s (s.raise c) := fun l d h => by
  rw [State.raise_pending]
  exact .inr h

theorem State.raiseIf_grows (s : State) (b : Bool) (c : Condition) : PendingGrows s (s.raiseIf b c) := by
  unfold State.raiseIf
  split
  · exact s.raise_grows c
  · exact PendingGrows.refl s

theorem State.count_grows (s : State) (c : TallyClass) (q : Nat) : PendingGrows s (s.count c q) := by
  unfold State.count
  split
  · exact PendingGrows.refl s
  · dsimp only
    generalize hu : s.withTally _ = u
    have a : PendingGrows s u := PendingGrows.of_control (hu ▸ rfl)
    have b := a.trans (u.raiseIf_grows (s.tally.tallies.toList.any fun t => t.reaches c q) .tallyLimit)
    split
    · exact b.trans (PendingGrows.of_control rfl)
    · exact b

end Sys2Proof.Machine
end

