-- ==== Sys2Proof/Laws/Display.lean ====
section
/-! SUPPORT. What the Display Scheduler's operations can do: they write the screens, what was sent, the pending sets and
the Tally Unit, and nothing else. -/

namespace Sys2Proof.Machine

/-- `t` differs from `s` in the screens, in what was sent, in the pending sets and in the Tally Unit alone. -/
structure DisplayOnly (s t : State) : Prop where
  clock : t.clock = s.clock
  intake : t.intake = s.intake
  align : t.align = s.align
  passage : t.passage = s.passage
  registry : t.registry = s.registry
  park : t.park = s.park
  store : t.store = s.store
  startUp : t.startUp = s.startUp
  restartDue : t.restartDue = s.restartDue
  elapsed : t.elapsed = s.elapsed
  pending : t.pending = s.pending
  token : t.control.token = s.control.token
  claim : t.control.claim = s.control.claim
  watchList : t.control.watchList = s.control.watchList
  watchLog : t.control.watchLog = s.control.watchLog
  overflow : t.control.overflow = s.control.overflow
  resetCause : t.control.resetCause = s.control.resetCause
  link : ∀ l, (t.controlLink l).link = (s.controlLink l).link
  timer : ∀ l, (t.controlLink l).timer = (s.controlLink l).timer
  inProgress : ∀ l, (t.controlLink l).inProgress = (s.controlLink l).inProgress
  mask : ∀ l, (t.controlLink l).mask = (s.controlLink l).mask

namespace DisplayOnly

theorem refl (s : State) : DisplayOnly s s := by constructor <;> intros <;> rfl

theorem trans {s t u : State} (h : DisplayOnly s t) (k : DisplayOnly t u) : DisplayOnly s u where
  clock := k.clock.trans h.clock
  intake := k.intake.trans h.intake
  align := k.align.trans h.align
  passage := k.passage.trans h.passage
  registry := k.registry.trans h.registry
  park := k.park.trans h.park
  store := k.store.trans h.store
  startUp := k.startUp.trans h.startUp
  restartDue := k.restartDue.trans h.restartDue
  elapsed := k.elapsed.trans h.elapsed
  pending := k.pending.trans h.pending
  token := k.token.trans h.token
  claim := k.claim.trans h.claim
  watchList := k.watchList.trans h.watchList
  watchLog := k.watchLog.trans h.watchLog
  overflow := k.overflow.trans h.overflow
  resetCause := k.resetCause.trans h.resetCause
  link := fun l => (k.link l).trans (h.link l)
  timer := fun l => (k.timer l).trans (h.timer l)
  inProgress := fun l => (k.inProgress l).trans (h.inProgress l)
  mask := fun l => (k.mask l).trans (h.mask l)

end DisplayOnly

theorem MarksOnly.toDisplayOnly {s t : State} (h : MarksOnly s t) : DisplayOnly s t where
  clock := h.clock
  intake := h.intake
  align := h.align
  passage := h.passage
  registry := h.registry
  park := h.park
  store := h.store
  startUp := h.startUp
  restartDue := h.restartDue
  elapsed := h.elapsed
  pending := h.pending
  token := h.token
  claim := h.claim
  watchList := h.watchList
  watchLog := h.watchLog
  overflow := h.overflow
  resetCause := h.resetCause
  link := h.link
  timer := h.timer
  inProgress := h.inProgress
  mask := h.mask

theorem State.withScreen_display (s : State) (k : ScreenNo) (x : Screen) : DisplayOnly s (s.withScreen k x) := by
  constructor <;> intros <;> rfl

theorem State.transmit_display (s : State) (m : Sent) : DisplayOnly s (s.transmit m) := by
  constructor <;> intros <;> rfl

theorem State.riseSequence_display (s : State) (k : ScreenNo) : DisplayOnly s (s.riseSequence k) := by
  simp only [State.riseSequence]
  split
  · exact (s.withScreen_display k _).trans (State.transmit_display _ _)
  · exact s.withScreen_display k _

theorem State.settleScreen_display (s : State) (k : ScreenNo) (o : ScreenOutcome) :
    DisplayOnly s (s.settleScreen k o) := by
  have h := (s.withScreen_display k o.screen).trans ((State.countAll_marks _ o.counts k).toDisplayOnly)
  simp only [State.settleScreen]
  split
  · exact h.trans (State.riseSequence_display _ k)
  · exact h

theorem handToScreens_display (r : Runner) (p : Point) (cr : Crossing) (ks : List ScreenNo) (s : State) :
    DisplayOnly s (handToScreens r p cr ks s).1 := by
  induction ks generalizing s with
  | nil => exact .refl s
  | cons k ks ih =>
    simp only [handToScreens]
    split
    · exact ih s
    · exact (s.settleScreen_display k _).trans (ih _)

theorem State.handOff_display (s : State) (r : Runner) (p : Point) (cr : Crossing) :
    DisplayOnly s (s.handOff r p cr) := by
  have h := handToScreens_display r p cr (List.finRange 8) s
  unfold State.handOff
  generalize handToScreens r p cr (List.finRange 8) s = x at h
  exact h.trans (State.raiseIf_marks _ _ _).toDisplayOnly

theorem State.dropBib_display (s : State) (bib : Half) : DisplayOnly s (s.dropBib bib) := by
  unfold State.dropBib
  generalize List.finRange 8 = ks
  induction ks generalizing s with
  | nil => exact .refl s
  | cons k ks ih => exact (s.settleScreen_display k _).trans (ih _)

theorem State.answerHeld_display (s : State) (k : ScreenNo) : DisplayOnly s (s.answerHeld k) := by
  simp only [State.answerHeld]
  split
  · exact (s.withScreen_display k _).trans (State.transmit_display _ _)
  · exact .refl s

theorem State.answerRequest_display (s : State) (k : ScreenNo) (last : Half) (wait : Bool) :
    DisplayOnly s (s.answerRequest k last wait) := by
  simp only [State.answerRequest]
  split
  · exact (s.withScreen_display k _).trans (State.transmit_display _ _)
  · split
    · exact s.transmit_display _
    · split
      · exact s.transmit_display _
      · exact s.withScreen_display k _

/-! ## Screens that an event leaves alone -/

/-- Counting and raising leave every screen. -/
@[simp] theorem State.countAll_screens (s : State) (cs : List TallyClass) (q : Nat) :
    (s.countAll cs q).screens = s.screens := (s.countAll_marks cs q).screens

/-- A rise of one screen's sequence leaves every other screen. -/
theorem State.riseSequence_other (s : State) {k j : ScreenNo} (h : j ≠ k) :
    (s.riseSequence k).screens[j] = s.screens[j] := by
  simp only [State.riseSequence]
  split
  · exact s.withScreen_other _ h
  · exact s.withScreen_other _ h

/-- What an event does to one screen leaves every other screen. -/
theorem State.settleScreen_other (s : State) {k j : ScreenNo} (o : ScreenOutcome) (h : j ≠ k) :
    (s.settleScreen k o).screens[j] = s.screens[j] := by
  have e : ((s.withScreen k o.screen).countAll o.counts k).screens[j] = s.screens[j] :=
    (congrArg (fun v : Vector Screen 8 => v[j]) (State.countAll_screens _ _ _)).trans (s.withScreen_other _ h)
  unfold State.settleScreen
  dsimp only
  by_cases hr : o.rises = true
  · rw [if_pos hr]; exact (State.riseSequence_other _ h).trans e
  · rw [if_neg hr]; exact e

/-! ## What an event leaves of its own screen -/

/-- A rise of a screen's sequence: it counts by 1 and answers a held request, and keeps the queue and the lines. -/
theorem State.riseSequence_self (s : State) (k : ScreenNo) :
    (s.riseSequence k).screens[k] = { s.screens[k] with seq := s.screens[k].seq + 1, held := none } := by
  simp only [State.riseSequence]
  split
  · show (s.screens.set k _)[k] = _
    simp
  · rename_i h
    show (s.screens.set k _)[k] = _
    simp only [Option.isSome_iff_ne_none, ne_eq, not_not] at h
    simp at h
    simp [← h]

/-- What an event leaves of its own screen. -/
theorem State.settleScreen_self (s : State) (k : ScreenNo) (o : ScreenOutcome) :
    (s.settleScreen k o).screens[k] =
      if o.rises = true then { o.screen with seq := o.screen.seq + 1, held := none } else o.screen := by
  have e : ((s.withScreen k o.screen).countAll o.counts k).screens[k] = o.screen := by
    simp only [State.countAll_screens]
    show (s.screens.set k _)[k] = _
    simp
  unfold State.settleScreen
  dsimp only
  split
  · rw [State.riseSequence_self, e]
  · exact e

/-- A DISQUALIFY does to each screen what it does to that screen alone. -/
theorem State.dropBib_screen (s : State) (bib : Half) (k : ScreenNo) :
    (s.dropBib bib).screens[k] = (s.settleScreen k (s.screens[k].dropBib s.now bib)).screens[k] := by
  have main : ∀ (ks : List ScreenNo) (s : State), ks.Nodup →
      (ks.foldl (fun t k => t.settleScreen k (t.screens[k].dropBib t.now bib)) s).screens[k] =
        if k ∈ ks then (s.settleScreen k (s.screens[k].dropBib s.now bib)).screens[k] else s.screens[k] := by
    intro ks
    induction ks with
    | nil => intro s _; simp
    | cons j ks ih =>
      intro s hn
      obtain ⟨hj, hn⟩ := List.nodup_cons.1 hn
      rw [List.foldl_cons, ih _ hn]
      by_cases e : k = j
      · subst e
        rw [if_neg hj, if_pos (by simp)]
      · have o := s.settleScreen_other (s.screens[j].dropBib s.now bib) e
        have n : (s.settleScreen j (s.screens[j].dropBib s.now bib)).now = s.now :=
          congrArg RaceClock.value (s.settleScreen_display j _).clock
        have m : k ∈ j :: ks ↔ k ∈ ks := by simp [e]
        simp only [m, o, n, State.settleScreen_self]
  unfold State.dropBib
  rw [main _ _ (List.nodup_finRange 8), if_pos (List.mem_finRange k)]

/-! ## Lines and the head -/

theorem freeLine_some {lines : List (Option ShownItem)} {i : Nat} (h : lines[i]? = some none)
    (h2 : ∀ j, j < i → lines[j]? ≠ some none) : freeLine lines = some i := by
  unfold freeLine
  rw [List.findIdx?_eq_some_iff_getElem]
  obtain ⟨hi, e⟩ := List.getElem?_eq_some_iff.1 h
  refine ⟨hi, by rw [e]; rfl, fun j hj => ?_⟩
  have := h2 j hj
  rw [List.getElem?_eq_getElem (by omega)] at this
  simpa [Option.isNone_iff_eq_none] using this

theorem freeLine_none {lines : List (Option ShownItem)} (h : ∀ y ∈ lines, y.isSome = true) : freeLine lines = none := by
  unfold freeLine
  rw [List.findIdx?_eq_none_iff]
  intro x hx
  simpa using h x hx

/-- A head that is not due, or no head, ends the consideration. -/
theorem considerHead_stop {prof : Profile} {now : Nat} {queue : List DisplayItem} {lines : List (Option ShownItem)}
    (h : ∀ y ∈ queue.head?, now < y.due) :
    considerHead prof now queue lines = { queue, lines, waiting := false, counts := [], changed := false } := by
  cases queue with
  | nil => rfl
  | cons y rest =>
    unfold considerHead
    rw [if_pos (h y rfl)]

theorem preemptLine_none {lines : List (Option ShownItem)}
    (h : ∀ y ∈ lines, ∀ z, y = some z → z.item.priority = true) : preemptLine lines = none := by
  induction lines with
  | nil => rfl
  | cons a l ih =>
    unfold preemptLine
    have e : preemptible a = none := by
      cases a with
      | none => rfl
      | some z => simp [preemptible, h (some z) (by simp) z rfl]
    rw [e, ih fun y hy => h y (by simp [hy])]

/-- The line pre-empted holds the non-priority item that was shown earliest, the lower-numbered among equals (R146). -/
theorem preemptLine_some {lines : List (Option ShownItem)} {i : Nat} {z : ShownItem} (h : lines[i]? = some (some z))
    (hp : z.item.priority = false)
    (hmin : ∀ (j : Nat) (y : ShownItem), lines[j]? = some (some y) → y.item.priority = false →
      z.shownAt ≤ y.shownAt ∧ (j < i → z.shownAt < y.shownAt)) : preemptLine lines = some i := by
  have at_ : ∀ {a : Option ShownItem} {t : Nat}, preemptible a = some t →
      ∃ y, a = some y ∧ y.item.priority = false ∧ t = y.shownAt := by
    intro a t ha
    cases a with
    | none => cases ha
    | some y =>
      simp only [preemptible] at ha
      split at ha
      · cases ha
      · rename_i hy
        exact ⟨y, rfl, by simpa using hy, (Option.some.inj ha).symm⟩
  induction lines generalizing i with
  | nil => simp at h
  | cons a l ih =>
    unfold preemptLine
    cases i with
    | zero =>
      simp only [List.getElem?_cons_zero, Option.some.injEq] at h
      subst h
      have e : preemptible (some z) = some z.shownAt := by simp [preemptible, hp]
      rw [e]
      cases preemptLine l with
      | none => rfl
      | some i =>
        cases hb : l[i]?.bind preemptible with
        | none => simp only [hb]
        | some u =>
          obtain ⟨w, hw, hu⟩ := Option.bind_eq_some_iff.1 hb
          obtain ⟨y, rfl, hy, rfl⟩ := at_ hu
          simp only [hb]
          rw [if_pos (hmin (i + 1) y (by simpa using hw) hy).1]
    | succ i =>
      simp only [List.getElem?_cons_succ] at h
      have hl := ih h fun j y hj hy => by
        have := hmin (j + 1) y (by simpa using hj) hy
        exact ⟨this.1, fun k => this.2 (by omega)⟩
      rw [hl]
      cases ha : preemptible a with
      | none => rfl
      | some t =>
        obtain ⟨y, rfl, hy, rfl⟩ := at_ ha
        have e : l[i]?.bind preemptible = some z.shownAt := by rw [h]; simp [preemptible, hp]
        have := (hmin 0 y (by simp) hy).2 (by omega)
        simp only [e]
        rw [if_neg (by omega)]

/-- A stale head leaves the queue and the next is considered (R145). -/
theorem considerHead_stale {prof : Profile} {now : Nat} {x : DisplayItem} (rest : List DisplayItem)
    (lines : List (Option ShownItem)) (h : x.due + prof.stale < now) :
    considerHead prof now (x :: rest) lines = { considerHead prof now rest lines with
      counts := .itemStale :: (considerHead prof now rest lines).counts } := by
  conv_lhs => unfold considerHead
  rw [if_neg (by omega), if_pos (by simpa [isStale] using h)]

/-- A due head that is not stale takes the line there is for it, and the next is considered (R145, R146). -/
theorem considerHead_shows {prof : Profile} {now : Nat} {x : DisplayItem} (rest : List DisplayItem)
    {lines : List (Option ShownItem)} {i : Nat} (hd : x.due ≤ now) (hs : now ≤ x.due + prof.stale)
    (hl : lineFor x lines = some i) :
    considerHead prof now (x :: rest) lines =
      { considerHead prof now rest (lines.set i (some (showItem prof now x))) with
        counts := .itemShown :: (considerHead prof now rest (lines.set i (some (showItem prof now x)))).counts
        changed := true } := by
  conv_lhs => unfold considerHead
  rw [if_neg (by omega), if_neg (by simpa [isStale] using hs), hl]

/-- A due head that is not stale waits when there is no line for it (R146). -/
theorem considerHead_waits {prof : Profile} {now : Nat} {x : DisplayItem} (rest : List DisplayItem)
    {lines : List (Option ShownItem)} (hd : x.due ≤ now) (hs : now ≤ x.due + prof.stale)
    (hl : lineFor x lines = none) :
    considerHead prof now (x :: rest) lines =
      { queue := x :: rest, lines, waiting := true, counts := [], changed := false } := by
  conv_lhs => unfold considerHead
  rw [if_neg (by omega), if_neg (by simpa [isStale] using hs), hl]

/-! ## A hand-off and a due queue -/

/-- Considering the head brings no item: the queue that it leaves is part of the queue, and what stands on a line stood
there or was queued. -/
theorem considerHead_mem (prof : Profile) (now : Nat) (queue : List DisplayItem) (lines : List (Option ShownItem)) :
    (∀ y ∈ (considerHead prof now queue lines).queue, y ∈ queue) ∧
    (∀ z, some z ∈ (considerHead prof now queue lines).lines → some z ∈ lines ∨ z.item ∈ queue) := by
  induction queue generalizing lines with
  | nil => exact ⟨fun y h => h, fun z h => .inl h⟩
  | cons x rest ih =>
    unfold considerHead
    split
    · exact ⟨fun y h => h, fun z h => .inl h⟩
    · split
      · obtain ⟨a, b⟩ := ih lines
        exact ⟨fun y h => .tail _ (a y h), fun z h => (b z h).imp id (.tail _)⟩
      · split
        · rename_i i _
          obtain ⟨a, b⟩ := ih (lines.set i (some (showItem prof now x)))
          refine ⟨fun y h => .tail _ (a y h), fun z h => ?_⟩
          rcases b z h with c | c
          · rcases List.mem_or_eq_of_mem_set c with c | c
            · exact .inl c
            · exact .inr (by rw [Option.some.inj c]; exact .head _)
          · exact .inr (.tail _ c)
        · exact ⟨fun y h => h, fun z h => .inl h⟩

/-- The hand-off to the screens is a fold over them. -/
theorem handToScreens_eq_foldl (r : Runner) (p : Point) (cr : Crossing) (ks : List ScreenNo) (s : State) (b : Bool) :
    ks.foldl (fun (x : State × Bool) k => match offerTo x.1 k r p cr with
      | none => x
      | some o => (x.1.settleScreen k o, x.2 || o.full)) (s, b) =
      ((handToScreens r p cr ks s).1, b || (handToScreens r p cr ks s).2) := by
  induction ks generalizing s b with
  | nil => simp [handToScreens]
  | cons k ks ih =>
    rw [List.foldl_cons]
    unfold handToScreens
    cases offerTo s k r p cr with
    | none => simp only [ih]
    | some o => simp only [ih, Bool.or_assoc]

/-- In a queue in due order an item is inserted before the first that is due later (R142). -/
theorem insertDue_split (x : DisplayItem) {queue : List DisplayItem} (h : queue.Pairwise fun y z => y.due ≤ z.due) :
    ∃ front back, queue = front ++ back ∧ insertDue x queue = front ++ x :: back ∧ (∀ y ∈ front, y.due ≤ x.due) ∧
      ∀ y ∈ back, x.due < y.due := by
  induction queue with
  | nil => exact ⟨[], [], rfl, rfl, by simp, by simp⟩
  | cons y rest ih =>
    obtain ⟨hy, hrest⟩ := List.pairwise_cons.1 h
    unfold insertDue
    by_cases c : y.due ≤ x.due
    · obtain ⟨front, back, e1, e2, e3, e4⟩ := ih hrest
      rw [if_pos c, e2]
      exact ⟨y :: front, back, by rw [e1]; rfl, rfl, by simpa [c] using e3, e4⟩
    · rw [if_neg c]
      refine ⟨[], y :: rest, rfl, rfl, by simp, fun z hz => ?_⟩
      rcases List.mem_cons.1 hz with rfl | hz
      · omega
      · have := hy z hz
        omega

end Sys2Proof.Machine
end

