-- ==== Sys2Proof/Laws/Crossing.lean ====
section
/-! SUPPORT. What taking a crossing can do: it writes crossings, statuses and place counters, the Park List, the screens,
the watch log, what was sent, the pending sets and the Tally Unit, and nothing else. -/

namespace Sys2Proof.Machine

/-- `t` differs from `s` in runner records, whose bibs stay, place counters, the Park List, the screens, the watch log, what
was sent, the pending sets and the Tally Unit alone. -/
structure RecordsOnly (s t : State) : Prop where
  clock : t.clock = s.clock
  intake : t.intake = s.intake
  align : t.align = s.align
  passage : t.passage = s.passage
  store : t.store = s.store
  startUp : t.startUp = s.startUp
  restartDue : t.restartDue = s.restartDue
  elapsed : t.elapsed = s.elapsed
  pending : t.pending = s.pending
  token : t.control.token = s.control.token
  claim : t.control.claim = s.control.claim
  watchList : t.control.watchList = s.control.watchList
  resetCause : t.control.resetCause = s.control.resetCause
  course : t.registry.course = s.registry.course
  ports : t.registry.ports = s.registry.ports
  limits : t.registry.limits = s.registry.limits
  chipMap : t.registry.chipMap = s.registry.chipMap
  state : t.registry.state = s.registry.state
  requester : t.registry.requester = s.registry.requester
  clearing : t.registry.clearing = s.registry.clearing
  link : ∀ l, (t.controlLink l).link = (s.controlLink l).link
  timer : ∀ l, (t.controlLink l).timer = (s.controlLink l).timer
  inProgress : ∀ l, (t.controlLink l).inProgress = (s.controlLink l).inProgress
  mask : ∀ l, (t.controlLink l).mask = (s.controlLink l).mask
  bibs : t.registry.bibs = s.registry.bibs

namespace RecordsOnly

theorem refl (s : State) : RecordsOnly s s := by constructor <;> intros <;> rfl

theorem trans {s t u : State} (h : RecordsOnly s t) (k : RecordsOnly t u) : RecordsOnly s u where
  clock := k.clock.trans h.clock
  intake := k.intake.trans h.intake
  align := k.align.trans h.align
  passage := k.passage.trans h.passage
  store := k.store.trans h.store
  startUp := k.startUp.trans h.startUp
  restartDue := k.restartDue.trans h.restartDue
  elapsed := k.elapsed.trans h.elapsed
  pending := k.pending.trans h.pending
  token := k.token.trans h.token
  claim := k.claim.trans h.claim
  watchList := k.watchList.trans h.watchList
  resetCause := k.resetCause.trans h.resetCause
  course := k.course.trans h.course
  ports := k.ports.trans h.ports
  limits := k.limits.trans h.limits
  chipMap := k.chipMap.trans h.chipMap
  state := k.state.trans h.state
  requester := k.requester.trans h.requester
  clearing := k.clearing.trans h.clearing
  link := fun l => (k.link l).trans (h.link l)
  timer := fun l => (k.timer l).trans (h.timer l)
  inProgress := fun l => (k.inProgress l).trans (h.inProgress l)
  mask := fun l => (k.mask l).trans (h.mask l)
  bibs := k.bibs.trans h.bibs

end RecordsOnly

theorem DisplayOnly.toRecordsOnly {s t : State} (h : DisplayOnly s t) : RecordsOnly s t where
  clock := h.clock
  intake := h.intake
  align := h.align
  passage := h.passage
  store := h.store
  startUp := h.startUp
  restartDue := h.restartDue
  elapsed := h.elapsed
  pending := h.pending
  token := h.token
  claim := h.claim
  watchList := h.watchList
  resetCause := h.resetCause
  course := by rw [h.registry]
  ports := by rw [h.registry]
  limits := by rw [h.registry]
  chipMap := by rw [h.registry]
  state := by rw [h.registry]
  requester := by rw [h.registry]
  clearing := by rw [h.registry]
  link := h.link
  timer := h.timer
  inProgress := h.inProgress
  mask := h.mask
  bibs := by rw [h.registry]

theorem RecordsOnly.ite {s t u : State} {c : Prop} [Decidable c] (h : RecordsOnly s t) (k : RecordsOnly s u) :
    RecordsOnly s (if c then t else u) := by split <;> assumption

theorem MarksOnly.toRecordsOnly {s t : State} (h : MarksOnly s t) : RecordsOnly s t := h.toDisplayOnly.toRecordsOnly

theorem State.withPark_records (s : State) (l : List ParkEntry) : RecordsOnly s (s.withPark l) := by
  constructor <;> intros <;> rfl

theorem State.putRunner_records (s : State) (r : Runner) : RecordsOnly s (s.putRunner r) := by
  constructor <;> try (intros; rfl)
  show (List.map _ (List.map _ s.registry.runners)) = List.map _ s.registry.runners
  rw [List.map_map]
  apply List.map_congr_left
  intro x _
  by_cases h : x.bib = r.bib <;> simp [h]

theorem State.takePlace_records (s : State) (p : Point) (cr : Crossing) : RecordsOnly s (s.takePlace p cr).1 := by
  unfold State.takePlace
  split
  · exact .refl s
  · constructor <;> intros <;> rfl

theorem State.judge_records (s : State) (r : Runner) (p : Point) (cr : Crossing) :
    RecordsOnly s (s.judge r p cr).1 := by
  unfold State.judge
  split
  · exact .refl s
  · exact s.takePlace_records p _

theorem State.appendWatch_records (s : State) (e : WatchEntry) : RecordsOnly s (s.appendWatch e) := by
  have h : ∀ c : ControlUnit, c.token = s.control.token → c.claim = s.control.claim →
      c.watchList = s.control.watchList → c.resetCause = s.control.resetCause → c.linkA = s.control.linkA →
      c.linkB = s.control.linkB → RecordsOnly s (s.withControl c) := by
    intro c h1 h2 h3 h4 h5 h6
    constructor <;> try (intros; rfl)
    all_goals first
      | assumption
      | (intro l; cases l <;> simp [State.controlLink, ControlUnit.linkOf, h5, h6])
  unfold State.appendWatch
  split
  · exact h _ rfl rfl rfl rfl rfl rfl
  · exact (h { s.control with overflow := true } rfl rfl rfl rfl rfl rfl).trans
      (State.raiseIf_marks _ _ _).toRecordsOnly

theorem State.logCrossing_records (s : State) (r : Runner) (p : Point) (cr : Crossing) :
    RecordsOnly s (s.logCrossing r p cr) := by
  unfold State.logCrossing
  split
  · exact s.appendWatch_records _
  · exact .refl s

theorem State.handOffIf_display (s : State) (b : Bool) (r : Runner) (p : Point) (cr : Crossing) :
    DisplayOnly s (s.handOffIf b r p cr) := by
  unfold State.handOffIf
  split
  · exact s.handOff_display r p cr
  · exact .refl s

theorem State.recordNew_records (s : State) (r : Runner) (i : Incoming) (b : Bool) :
    RecordsOnly s (s.recordNew r i b) := by
  simp only [State.recordNew]
  exact ((((s.judge_records r i.point i.fresh).trans
    ((State.count_marks _ _ _).trans (State.raiseIf_marks _ _ _)).toRecordsOnly).trans
    (State.putRunner_records _ _)).trans (State.logCrossing_records _ _ _ _)).trans
    (State.handOffIf_display _ _ _ _ _).toRecordsOnly

theorem State.writeCrossing_records (s : State) (r : Runner) (p : Point) (cr : Option Crossing) :
    RecordsOnly s (s.writeCrossing r p cr) := s.putRunner_records _

theorem State.replaceCrossing_records (s : State) (r : Runner) (i : Incoming) (old : Crossing) :
    RecordsOnly s (s.replaceCrossing r i old) := by
  simp only [State.replaceCrossing]
  exact (((s.judge_records r i.point _).trans (State.writeCrossing_records _ _ _ _)).trans
    (State.countAll_marks _ _ _).toRecordsOnly).trans (State.raiseIf_marks _ _ _).toRecordsOnly

theorem State.confirmCrossing_records (s : State) (r : Runner) (i : Incoming) (old : Crossing) :
    RecordsOnly s (s.confirmCrossing r i old) := by
  simp only [State.confirmCrossing]
  split
  · exact (((s.judge_records r i.point _).trans (State.writeCrossing_records _ _ _ _)).trans
      (State.countAll_marks _ _ _).toRecordsOnly).trans (State.raiseIf_marks _ _ _).toRecordsOnly
  · exact (s.writeCrossing_records _ _ _).trans (State.count_marks _ _ _).toRecordsOnly

theorem State.applyCrossing_records (s : State) (r : Runner) (i : Incoming) (b : Bool) :
    RecordsOnly s (s.applyCrossing r i b) := by
  simp only [State.applyCrossing]
  split
  · exact s.recordNew_records r i b
  · split
    · exact (s.count_marks _ _).toRecordsOnly
    · split
      · exact s.replaceCrossing_records r i _
      · split
        · exact s.confirmCrossing_records r i _
        · exact (s.count_marks _ _).toRecordsOnly

theorem State.parkCrossing_records (s : State) (chip : Word32) (p : Point) (new : ParkedCrossing) :
    RecordsOnly s (s.parkCrossing chip p new) := by
  unfold State.parkCrossing
  split
  · exact s.withPark_records _
  · split
    · exact ((s.withPark_records _).trans (State.count_marks _ _ _).toRecordsOnly).trans
        (State.raise_marks _ _).toRecordsOnly
    · exact (((((s.withPark_records _).trans (State.count_marks _ _ _).toRecordsOnly).trans
        (State.count_marks _ _ _).toRecordsOnly)).trans (State.raise_marks _ _).toRecordsOnly).trans
        (State.raise_marks _ _).toRecordsOnly

theorem State.takeCrossing_records (s : State) (i : Incoming) (b : Bool) : RecordsOnly s (s.takeCrossing i b) := by
  unfold State.takeCrossing
  split
  · exact s.parkCrossing_records _ _ _
  · split
    · exact .refl s
    · split
      · exact s.applyCrossing_records _ i b
      · exact (s.count_marks _ _).toRecordsOnly

theorem State.replay_records (s : State) (e : ParkEntry) : RecordsOnly s (s.replay e) := by
  unfold State.replay
  generalize e.incoming = l
  induction l generalizing s with
  | nil => exact .refl s
  | cons i l ih => exact (s.takeCrossing_records i true).trans (ih _)

end Sys2Proof.Machine
end

