-- ==== Sys2Proof/Laws/Passage.lean ====
section
/-! SUPPORT. What the credit operations, the takes and the closing of passages can do. -/

namespace Sys2Proof.Machine

/-- `t` differs from `s` in intake lists and credit accounts, in the held read and the last served port, in what was sent,
in the pending sets and in the Tally Unit alone: links, timers, numbering and passages stay. -/
structure TakesOnly (s t : State) : Prop where
  clock : t.clock = s.clock
  align : t.align = s.align
  registry : t.registry = s.registry
  park : t.park = s.park
  screens : t.screens = s.screens
  store : t.store = s.store
  startUp : t.startUp = s.startUp
  restartDue : t.restartDue = s.restartDue
  elapsed : t.elapsed = s.elapsed
  pending : t.pending = s.pending
  token : t.control.token = s.control.token
  claim : t.control.claim = s.control.claim
  watchList : t.control.watchList = s.control.watchList
  watchLog : t.control.watchLog = s.control.watchLog
  overflow : t.control.overflow = s.control.overflow
  resetCause : t.control.resetCause = s.control.resetCause
  lists : t.passage.lists = s.passage.lists
  link : ∀ l, (t.controlLink l).link = (s.controlLink l).link
  timer : ∀ l, (t.controlLink l).timer = (s.controlLink l).timer
  inProgress : ∀ l, (t.controlLink l).inProgress = (s.controlLink l).inProgress
  mask : ∀ l, (t.controlLink l).mask = (s.controlLink l).mask
  matLink : t.intake.toList.map MatIntake.link = s.intake.toList.map MatIntake.link
  matTimer : t.intake.toList.map MatIntake.timer = s.intake.toList.map MatIntake.timer
  expected : t.intake.toList.map MatIntake.expected = s.intake.toList.map MatIntake.expected

namespace TakesOnly

theorem refl (s : State) : TakesOnly s s := by constructor <;> intros <;> rfl

theorem trans {s t u : State} (h : TakesOnly s t) (k : TakesOnly t u) : TakesOnly s u where
  clock := k.clock.trans h.clock
  align := k.align.trans h.align
  registry := k.registry.trans h.registry
  park := k.park.trans h.park
  screens := k.screens.trans h.screens
  store := k.store.trans h.store
  startUp := k.startUp.trans h.startUp
  restartDue := k.restartDue.trans h.restartDue
  elapsed := k.elapsed.trans h.elapsed
  pending := k.pending.trans h.pending
  token := k.token.trans h.token
  claim := k.claim.trans h.claim
  watchList := k.watchList.trans h.watchList
  watchLog := k.watchLog.trans h.watchLog
  overflow := k.overflow.trans h.overflow
  resetCause := k.resetCause.trans h.resetCause
  lists := k.lists.trans h.lists
  link := fun l => (k.link l).trans (h.link l)
  timer := fun l => (k.timer l).trans (h.timer l)
  inProgress := fun l => (k.inProgress l).trans (h.inProgress l)
  mask := fun l => (k.mask l).trans (h.mask l)
  matLink := k.matLink.trans h.matLink
  matTimer := k.matTimer.trans h.matTimer
  expected := k.expected.trans h.expected

end TakesOnly

theorem MarksOnly.toTakesOnly {s t : State} (h : MarksOnly s t) : TakesOnly s t where
  clock := h.clock
  align := h.align
  registry := h.registry
  park := h.park
  screens := h.screens
  store := h.store
  startUp := h.startUp
  restartDue := h.restartDue
  elapsed := h.elapsed
  pending := h.pending
  token := h.token
  claim := h.claim
  watchList := h.watchList
  watchLog := h.watchLog
  overflow := h.overflow
  resetCause := h.resetCause
  lists := by rw [h.passage]
  link := h.link
  timer := h.timer
  inProgress := h.inProgress
  mask := h.mask
  matLink := by rw [h.intake]
  matTimer := by rw [h.intake]
  expected := by rw [h.intake]

/-- A field of a port's account that an update keeps is the same for every port. -/
theorem map_intake_set {α : Type} (f : MatIntake → α) (v : Vector MatIntake 12) (p : Port) (m : MatIntake)
    (h : f m = f v[p]) : (v.set p m).toList.map f = v.toList.map f := by
  apply List.ext_getElem
  · simp
  · intro i h1 h2
    simp only [List.getElem_map, Vector.getElem_toList, Vector.getElem_set]
    split
    · rename_i e; subst e; exact h
    · rfl

theorem State.withIntake_takes (s : State) (p : Port) (m : MatIntake) (h1 : m.link = s.intake[p].link)
    (h2 : m.timer = s.intake[p].timer) (h3 : m.expected = s.intake[p].expected) :
    TakesOnly s (s.withIntake p m) := by
  constructor <;> try (intros; rfl)
  · exact map_intake_set MatIntake.link s.intake p m h1
  · exact map_intake_set MatIntake.timer s.intake p m h2
  · exact map_intake_set MatIntake.expected s.intake p m h3

theorem State.transmit_takes (s : State) (m : Sent) : TakesOnly s (s.transmit m) := by
  constructor <;> intros <;> rfl

theorem State.withPassage_takes (s : State) (u : PassageUnit) (h : u.lists = s.passage.lists) :
    TakesOnly s (s.withPassage u) := by
  constructor <;> first | (intros; rfl) | exact h

theorem State.creditCheck_takes (s : State) (p : Port) : TakesOnly s (s.creditCheck p) := by
  simp only [State.creditCheck]
  split
  · exact (s.withIntake_takes p { s.intake[p] with unreported := 0 } rfl rfl rfl).trans (State.transmit_takes _ _)
  · exact .refl s

theorem State.returnCredit_takes (s : State) (p : Port) : TakesOnly s (s.returnCredit p) := by
  unfold State.returnCredit
  split
  · exact (s.withIntake_takes p s.intake[p].credited rfl rfl rfl).trans (State.creditCheck_takes _ p)
  · exact .refl s

theorem State.takeRead_takes (s : State) (p : Port) (x : IntakeRead) (rest : List IntakeRead) :
    TakesOnly s (s.takeRead p x rest) := by
  have h := ((s.withIntake_takes p { s.intake[p] with list := rest } rfl rfl rfl).trans
    (State.withPassage_takes _ { s.passage with lastServed := p } rfl)).trans (State.creditCheck_takes _ p)
  unfold State.takeRead
  dsimp only
  split
  · exact (h.trans (State.count_marks _ _ _).toTakesOnly).trans (State.returnCredit_takes _ p)
  · split
    · exact h.trans (State.withPassage_takes _ _ rfl)
    · exact (h.trans (State.count_marks _ _ _).toTakesOnly).trans (State.returnCredit_takes _ p)

theorem State.takeUpTo_takes (n : Nat) (s : State) : TakesOnly s (s.takeUpTo n) := by
  induction n generalizing s with
  | zero => exact .refl s
  | succ n ih =>
    unfold State.takeUpTo
    split
    · split
      · exact .refl s
      · split
        · exact .refl s
        · exact (s.takeRead_takes _ _ _).trans (ih _)
    · exact .refl s

theorem State.takeReads_takes (s : State) : TakesOnly s s.takeReads := s.takeUpTo_takes _

/-! ## Closing -/

theorem State.closeCrossing_records (s : State) (p : Port) (x : Passage) : RecordsOnly s (s.closeCrossing p x) := by
  unfold State.closeCrossing
  split
  · exact (s.takeCrossing_records _ _).trans (State.count_marks _ _ _).toRecordsOnly
  · exact .refl s

theorem State.closeAll_records (s : State) (p : Port) (l : List Passage) : RecordsOnly s (s.closeAll p l) := by
  unfold State.closeAll
  induction l generalizing s with
  | nil => exact .refl s
  | cons x l ih => exact (s.closeCrossing_records p x).trans (ih _)

theorem State.handOnRead_records (s : State) (h : HeldRead) : RecordsOnly s (s.handOnRead h) := by
  unfold State.handOnRead
  split
  · exact (s.takeCrossing_records _ _).trans (State.count_marks _ _ _).toRecordsOnly
  · exact .refl s

end Sys2Proof.Machine
end

