-- ==== Sys2Proof/Laws/Control.lean ====
section
/-! SUPPORT. What taking a command on a control link comes to, and that every command has a next state. -/

namespace Sys2Proof.Machine

/-- What a command on a control link comes to: discarded in start-up, refused with BUSY or NOT_IN_CHARGE, or handled
(R160, R161, R185). -/
theorem takeCommand_cases {l : Side} {tag : Byte} {needs : Bool} {handle : State → Verdict} {s t : State}
    (h : takeCommand l tag needs handle s = .next t) :
    (s.startUp = true ∧ t = s) ∨
    (s.startUp = false ∧
      (((s.controlLink l).inProgress.isSome = true ∧ t = (s.hearControl l).respond l tag .busy .nothing) ∨
       ((s.controlLink l).inProgress = none ∧ needs = true ∧ s.holds l = false ∧
          t = (s.hearControl l).respond l tag .notInCharge .nothing) ∨
       ((s.controlLink l).inProgress = none ∧ (needs = true → s.holds l = true) ∧
          t = (s.hearControl l).conclude l tag (handle (s.hearControl l))))) := by
  have e1 : ((s.hearControl l).controlLink l).inProgress = (s.controlLink l).inProgress := by
    simp [State.hearControl]
  have e2 : (s.hearControl l).holds l = s.holds l := by simp [State.hearControl, State.holds]
  simp only [takeCommand, Host.Outcome.next.injEq] at h
  subst h
  by_cases hs : s.startUp = true
  · exact .inl ⟨hs, by simp [hs]⟩
  · simp only [Bool.not_eq_true] at hs
    refine .inr ⟨hs, ?_⟩
    simp only [hs, Bool.false_eq_true, if_false, State.judgeCommand, e1, e2]
    cases hp : (s.controlLink l).inProgress with
    | some c => exact .inl ⟨rfl, by simp⟩
    | none =>
      refine .inr ?_
      cases needs <;> cases hh : s.holds l <;> simp

/-- A command that is taken runs its own handling (R161 step 4). -/
theorem takeCommand_taken {l : Side} {tag : Byte} {needs : Bool} {handle : State → Verdict} {s : State}
    (h1 : s.startUp = false) (h2 : (s.controlLink l).inProgress = none) (h3 : needs = true → s.holds l = true) :
    takeCommand l tag needs handle s =
      .next ((s.hearControl l).conclude l tag (handle (s.hearControl l))) := by
  have e1 : ((s.hearControl l).controlLink l).inProgress = none := by simpa [State.hearControl] using h2
  have e2 : (s.hearControl l).holds l = s.holds l := by simp [State.hearControl, State.holds]
  simp only [takeCommand, h1, State.judgeCommand, e1, e2]
  cases needs
  · simp
  · simp [h3 rfl]

/-- Hearing a command touches the link state and the timer of its link alone. -/
theorem State.hearControl_eq (s : State) (l : Side) : s.hearControl l = s.withLink l { s.controlLink l with
    link := .up, timer := some (s.elapsed + Config.controlSilence) } := rfl

/-- The link that has heard a command, in the state after it. -/
theorem State.hearControl_controlLink (s : State) (l : Side) : (s.hearControl l).controlLink l =
    { s.controlLink l with link := .up, timer := some (s.elapsed + Config.controlSilence) } := by
  cases l <;> rfl

/-- Hearing a command does not lift or set the bar of R84. -/
theorem State.unlessResetting_ready {s : State} (h : s.registry.state = .ready) (l : Side) (v : Verdict) :
    (s.hearControl l).unlessResetting v = v := by
  have : (s.hearControl l).resetting = false := by
    show (s.registry.state == .resetting) = false
    rw [h]
    rfl
  simp [State.unlessResetting, this]

/-- A second update of one control link stands alone. -/
@[simp] theorem State.withLink_withLink (s : State) (l : Side) (x y : ControlLink) :
    (s.withLink l x).withLink l y = s.withLink l y := by
  cases l <;> rfl

/-- Every command has a next state: no meaning ends in a fault or a refusal. -/
theorem exec_next (i : Instr) (s : State) : ∃ t, exec i s = .next t := by
  cases i <;> exact ⟨_, rfl⟩

/-! ## Properties that every command of a control link keeps -/

/-- A verdict leaves a state with property `P`, when it leaves a state of its own at all. -/
def Verdict.Keeps (P : State → Prop) : Verdict → Prop
  | .refuse _ => True
  | .answer _ _ t => P t
  | .stay t => P t

/-- A verdict behind the bar of R84 keeps what the verdict keeps while the Registry is READY. -/
theorem State.unlessResetting_keeps {P : State → Prop} {s : State} {v : Verdict}
    (h : s.resetting = false → v.Keeps P) : (s.unlessResetting v).Keeps P := by
  unfold State.unlessResetting
  split
  · trivial
  · rename_i k
    exact h (by simpa using k)

/-- A command of a control link keeps a property that hearing a command and sending an answer keep, when its own handling
keeps it in the states in which it is handled (R161). -/
theorem takeCommand_keeps {P : State → Prop} {l : Side} {tag : Byte} {needs : Bool} {handle : State → Verdict}
    {s t : State} (hear : ∀ u, P u → P (u.hearControl l)) (send : ∀ u m, P u → P (u.transmit m))
    (own : ∀ u, P u → u.startUp = false → (u.controlLink l).inProgress = none →
      (needs = true → u.control.token = .held l) → (handle u).Keeps P)
    (hs : P s) (h : takeCommand l tag needs handle s = .next t) : P t := by
  rcases takeCommand_cases h with ⟨_, rfl⟩ | ⟨h1, ⟨_, rfl⟩ | ⟨_, _, _, rfl⟩ | ⟨h2, h3, rfl⟩⟩
  · exact hs
  · exact send _ _ (hear _ hs)
  · exact send _ _ (hear _ hs)
  · have k := own (s.hearControl l) (hear _ hs) h1 (by rw [State.hearControl_controlLink]; exact h2) (fun hn => by
      have := h3 hn
      simp only [State.holds, beq_iff_eq] at this
      simpa [State.hearControl] using this)
    cases hv : handle (s.hearControl l) with
    | refuse r => exact send _ _ (hear _ hs)
    | answer r d u => rw [hv] at k; exact send _ _ k
    | stay u => rw [hv] at k; exact k

end Sys2Proof.Machine
end

