-- ==== Sys2Proof/Laws/Operands.lean ====
section
/-! SUPPORT. What each operand form answers: a value in its range, and `none` outside it. -/

namespace Sys2Proof.Machine

set_option Elab.async false

theorem indexOf_some {n : Nat} {b : Byte} {i : Fin n} (h : b.toNat = i.val) : indexOf n b = some i := by
  have := i.isLt
  simp [indexOf, h]

theorem indexOf_none {n : Nat} {b : Byte} (h : n ≤ b.toNat) : indexOf n b = none := by
  simp [indexOf, h]

theorem halfIn_some {lo hi : Nat} {v : Half} (h1 : lo ≤ v.toNat) (h2 : v.toNat ≤ hi) :
    halfIn lo hi v = some v.toNat := by
  simp [halfIn, h1, h2]

theorem halfIn_none {lo hi : Nat} {v : Half} (h : v.toNat < lo ∨ hi < v.toNat) : halfIn lo hi v = none := by
  simp [halfIn]; omega

theorem byteIn_some {lo hi : Nat} {v : Byte} (h1 : lo ≤ v.toNat) (h2 : v.toNat ≤ hi) :
    byteIn lo hi v = some v.toNat := by
  simp [byteIn, h1, h2]

theorem byteIn_none {lo hi : Nat} {v : Byte} (h : v.toNat < lo ∨ hi < v.toNat) : byteIn lo hi v = none := by
  simp [byteIn]; omega

theorem optHalfIn_some {lo hi d : Nat} {v : Option Half} (h : ∀ x ∈ v, lo ≤ x.toNat ∧ x.toNat ≤ hi) :
    optHalfIn lo hi d v = some ((v.map fun x => x.toNat).getD d) := by
  cases v with
  | none => rfl
  | some x => simp [optHalfIn, halfIn_some (h x rfl).1 (h x rfl).2]

theorem optHalfIn_none {lo hi d : Nat} {v : Option Half} (h : ∃ x ∈ v, x.toNat < lo ∨ hi < x.toNat) :
    optHalfIn lo hi d v = none := by
  obtain ⟨x, hx, h⟩ := h
  cases v with
  | none => simp at hx
  | some y =>
    simp only [Option.mem_def, Option.some.injEq] at hx
    subst hx
    exact halfIn_none h

theorem policyOf_some {b : Byte} (h : b.toNat ≤ 1) :
    policyOf b = some (if b.toNat = 0 then .first else .peak) := by
  have : b = 0 ∨ b = 1 := by
    rcases (by omega : b.toNat = 0 ∨ b.toNat = 1) with h | h
    · exact .inl (BitVec.eq_of_toNat_eq h)
    · exact .inr (BitVec.eq_of_toNat_eq h)
  rcases this with rfl | rfl <;> rfl

theorem policyOf_none {b : Byte} (h : 1 < b.toNat) : policyOf b = none := by
  unfold policyOf
  rw [if_neg (by rintro rfl; simp at h), if_neg (by rintro rfl; simp at h)]

theorem conditionOf_some {b : Byte} (h : 1 ≤ b.toNat ∧ b.toNat ≤ 18) :
    conditionOf b = Condition.all[b.toNat - 1]? ∧ (conditionOf b).isSome = true := by
  have hb : b ≠ 0 := by rintro rfl; simp at h
  refine ⟨by unfold conditionOf; rw [if_neg hb], ?_⟩
  simp only [conditionOf, hb, if_false]
  rw [List.getElem?_eq_getElem (by simp [Condition.all]; omega)]
  rfl

/-- A set of condition numbers in their range is read as the set of those conditions. -/
theorem condSetOf_some {bs : List Byte} (h : ∀ b ∈ bs, 1 ≤ b.toNat ∧ b.toNat ≤ 18) :
    ∃ x, condSetOf bs = some x ∧ (∀ c, c ∈ x ↔ ∃ b ∈ bs, Condition.all[b.toNat - 1]? = some c) ∧
      List.Sublist x Condition.all := by
  refine ⟨CondSet.ofList (bs.filterMap conditionOf), ?_, ?_, List.filter_sublist⟩
  · unfold condSetOf
    rw [if_pos]
    rw [List.all_eq_true]
    exact fun b hb => (conditionOf_some (h b hb)).2
  · intro c
    simp only [CondSet.ofList, List.mem_filter, Condition.mem_all, true_and, List.contains_iff_mem,
      List.mem_filterMap]
    exact ⟨fun ⟨b, hb, e⟩ => ⟨b, hb, (conditionOf_some (h b hb)).1 ▸ e⟩,
      fun ⟨b, hb, e⟩ => ⟨b, hb, (conditionOf_some (h b hb)).1.symm ▸ e⟩⟩

theorem condSetOf_none {bs : List Byte} (h : ∃ b ∈ bs, b.toNat = 0 ∨ 18 < b.toNat) : condSetOf bs = none := by
  obtain ⟨b, hb, h⟩ := h
  have e : conditionOf b = none := by
    unfold conditionOf
    split
    · rfl
    · rename_i hn
      rcases h with h | h
      · exact absurd (BitVec.eq_of_toNat_eq h) hn
      · rw [List.getElem?_eq_none]
        simp [Condition.all]
        omega
  unfold condSetOf
  rw [if_neg]
  rw [List.all_eq_true]
  intro k
  have := k b hb
  rw [e] at this
  simp at this

theorem optNameFits_iff (name : Option Name) :
    optNameFits name = true ↔ ∀ n ∈ name, n.length ≤ 12 ∧ ∀ c ∈ n, 0x20 ≤ c.toNat ∧ c.toNat ≤ 0x7E := by
  cases name <;> simp [optNameFits, nameFits, Config.nameLength]

theorem allDistinct_iff {α : Type} [BEq α] [LawfulBEq α] (l : List α) : allDistinct l = true ↔ l.Nodup := by
  induction l with
  | nil => simp [allDistinct]
  | cons x l ih => simp [allDistinct, ih]

/-- Six limits that are each in their range or not given. -/
theorem limitsOf_some {a : LimitsArgs} {old : Limits} (h1 : ∀ v ∈ a.minPace, 100 ≤ v.toNat ∧ v.toNat ≤ 400)
    (h2 : ∀ v ∈ a.confirmWindow, 1000 ≤ v.toNat ∧ v.toNat ≤ 60000)
    (h3 : ∀ v ∈ a.dwellGap, 200 ≤ v.toNat ∧ v.toNat ≤ 5000)
    (h4 : ∀ v ∈ a.maxDwell, 5000 ≤ v.toNat ∧ v.toNat ≤ 60000)
    (h5 : ∀ v ∈ a.projectionFloor, 1000 ≤ v.toNat ∧ v.toNat ≤ 40000)
    (h6 : ∀ v ∈ a.staleHorizon, 2000 ≤ v.toNat ∧ v.toNat ≤ 30000) :
    limitsOf a old = some {
      minPace := (a.minPace.map fun x => x.toNat).getD old.minPace
      confirmWindow := (a.confirmWindow.map fun x => x.toNat).getD old.confirmWindow
      dwellGap := (a.dwellGap.map fun x => x.toNat).getD old.dwellGap
      maxDwell := (a.maxDwell.map fun x => x.toNat).getD old.maxDwell
      projectionFloor := (a.projectionFloor.map fun x => x.toNat).getD old.projectionFloor
      staleHorizon := (a.staleHorizon.map fun x => x.toNat).getD old.staleHorizon } := by
  unfold limitsOf
  rw [optHalfIn_some h1, optHalfIn_some h2, optHalfIn_some h3, optHalfIn_some h4, optHalfIn_some h5,
    optHalfIn_some h6]
  rfl

end Sys2Proof.Machine
end

