-- ==== Sys2Proof/Laws/PerInstr.lean ====
section
/-! SUPPORT. Statements about the commands as syntax, one lemma per constructor: the body of every message fits a
frame. -/

namespace Sys2Proof

set_option Elab.async false

@[simp] theorem putHalf_length (v : Half) : (putHalf v).length = 2 := rfl

@[simp] theorem putWord_length (v : Word32) : (putWord v).length = 4 := rfl

@[simp] theorem putFlag_length (b : Bool) : (putFlag b).length = 1 := rfl

@[simp] theorem putByte_length (b : Byte) : (putByte b).length = 1 := rfl

/-- The length of an optional argument whose value has `n` bytes. -/
theorem putOpt_length {α : Type} (put : α → List Byte) (o : Option α) (n : Nat) (h : ∀ a, o = some a → (put a).length = n) :
    (putOpt put o).length = optSize o.isSome n := by
  cases o with
  | none => rfl
  | some a => simp [putOpt, optSize, h a rfl]

/-- The length of a value or a word in its place is at most that of its value and the presence byte. -/
theorem putChoice_length {α : Type} (put : α → List Byte) (o : Option α) (n : Nat) (h : ∀ a, (put a).length = n) :
    (putChoice put o).length ≤ n + 1 := by
  cases o with
  | none => simp [putChoice]
  | some a => simp [putChoice, h a]

/-- The length of a list whose members have `n` bytes each. -/
theorem putList_length {α : Type} (put : α → List Byte) (l : List α) (n : Nat) (h : ∀ a, (put a).length = n) :
    (putList put l).length = 1 + n * l.length := by
  have e : (l.flatMap put).length = n * l.length := by
    induction l with
    | nil => simp
    | cons a l ih => simp [List.flatMap_cons, h a, ih, Nat.mul_succ]; omega
  simp [putList, e]; omega

@[simp] theorem putBytes_length (l : List Byte) : (putList putByte l).length = 1 + l.length := by
  simpa using putList_length putByte l 1 fun _ => rfl

@[simp] theorem putName_length (n : Name) : (putName n).length = 1 + n.length := putBytes_length n

@[simp] theorem putHalves_length (l : List Half) : (putList putHalf l).length = 1 + 2 * l.length :=
  putList_length putHalf l 2 fun _ => rfl

@[simp] theorem putWords_length (l : List Word32) : (putList putWord l).length = 1 + 4 * l.length :=
  putList_length putWord l 4 fun _ => rfl

@[simp] theorem putOptHalf_length (o : Option Half) : (putOpt putHalf o).length = optSize o.isSome 2 :=
  putOpt_length putHalf o 2 fun _ _ => rfl

@[simp] theorem putOptWord_length (o : Option Word32) : (putOpt putWord o).length = optSize o.isSome 4 :=
  putOpt_length putWord o 4 fun _ _ => rfl

@[simp] theorem putOptByte_length (o : Option Byte) : (putOpt putByte o).length = optSize o.isSome 1 :=
  putOpt_length putByte o 1 fun _ _ => rfl

@[simp] theorem putOptFlag_length (o : Option Bool) : (putOpt putFlag o).length = optSize o.isSome 1 :=
  putOpt_length putFlag o 1 fun _ _ => rfl

@[simp] theorem putOptName_length (o : Option Name) :
    (putOpt putName o).length = optSize o.isSome (1 + (o.getD []).length) :=
  putOpt_length putName o _ fun a h => by subst h; simp

@[simp] theorem putOptBytes_length (o : Option (List Byte)) :
    (putOpt (putList putByte) o).length = optSize o.isSome (1 + (o.getD []).length) :=
  putOpt_length (putList putByte) o _ fun a h => by subst h; simp

/-- An optional argument takes at most its value and one byte more. -/
theorem optSize_le (b : Bool) (n : Nat) : optSize b n ≤ n + 1 := by cases b <;> simp [optSize]

/-- The body limit as a number (R186). -/
theorem maxBody_eq : Config.maxBody = 1024 := rfl

/-- The body of a well-formed command with a list fits a frame (R186, R190). -/
theorem Instr.wellFormed_body {i : Instr} (h : i.wellFormed = true) : i.listBodyLength ≤ Config.maxBody := by
  unfold Instr.wellFormed at h
  exact of_decide_eq_true (Bool.and_eq_true _ _ ▸ h).2

/-- The lists of a well-formed command fit their count bytes (R190). -/
theorem Instr.wellFormed_counts {i : Instr} (h : i.wellFormed = true) : i.countsFit = true := by
  unfold Instr.wellFormed at h
  exact (Bool.and_eq_true _ _ ▸ h).1

namespace Laws.BodyFits

/-- The body of the message that carries a well-formed command fits a frame (R186). -/
def Statement (i : Instr) : Prop :=
  i.wellFormed = true → ∀ m, i.message = some m → m.body.length ≤ Config.maxBody

theorem powerOn : Statement .powerOn := by
  intro _ m hm
  simp [Instr.message, Instr.commandBody] at hm

theorem stationReset (cause : StationCause) : Statement (.stationReset cause) := by
  intro _ m hm
  simp [Instr.message, Instr.commandBody] at hm

theorem startUpEnd : Statement .startUpEnd := by
  intro _ m hm
  simp [Instr.message, Instr.commandBody] at hm

theorem countedMillisecond : Statement .countedMillisecond := by
  intro _ m hm
  simp [Instr.message, Instr.commandBody] at hm

theorem refLoss : Statement .refLoss := by
  intro _ m hm
  simp [Instr.message, Instr.commandBody] at hm

theorem refReturn : Statement .refReturn := by
  intro _ m hm
  simp [Instr.message, Instr.commandBody] at hm

theorem matHello (p : Port) : Statement (.matHello p) := by
  intro _ m hm
  simp only [Instr.message, Option.some.injEq] at hm
  subst hm
  simp [maxBody_eq]

theorem read (p : Port) (seq : Byte) (chip : Word32) (dtime : Word32) (level : Byte) :
    Statement (.read p seq chip dtime level) := by
  intro _ m hm
  simp only [Instr.message, Option.some.injEq] at hm
  subst hm
  simp [maxBody_eq]

theorem syncReport (p : Port) (dtime : Word32) : Statement (.syncReport p dtime) := by
  intro _ m hm
  simp only [Instr.message, Option.some.injEq] at hm
  subst hm
  simp [maxBody_eq]

theorem matSilenceDeadline (p : Port) : Statement (.matSilenceDeadline p) := by
  intro _ m hm
  simp [Instr.message, Instr.commandBody] at hm

theorem discardedFrame (link : LinkId) : Statement (.discardedFrame link) := by
  intro _ m hm
  simp [Instr.message, Instr.commandBody] at hm

theorem byteGapTimeout (link : LinkId) : Statement (.byteGapTimeout link) := by
  intro _ m hm
  simp [Instr.message, Instr.commandBody] at hm

theorem staleDeadline (p : Port) : Statement (.staleDeadline p) := by
  intro _ m hm
  simp [Instr.message, Instr.commandBody] at hm

theorem readCompletion : Statement .readCompletion := by
  intro _ m hm
  simp [Instr.message, Instr.commandBody] at hm

theorem closeDeadline (p : Port) (chip : Word32) : Statement (.closeDeadline p chip) := by
  intro _ m hm
  simp [Instr.message, Instr.commandBody] at hm

theorem dueDeadline (k : ScreenNo) : Statement (.dueDeadline k) := by
  intro _ m hm
  simp [Instr.message, Instr.commandBody] at hm

theorem lineExpiry (k : ScreenNo) (line : Fin 4) : Statement (.lineExpiry k line) := by
  intro _ m hm
  simp [Instr.message, Instr.commandBody] at hm

theorem screenHello (k : ScreenNo) : Statement (.screenHello k) := by
  intro _ m hm
  simp only [Instr.message, Option.some.injEq] at hm
  subst hm
  simp [maxBody_eq]

theorem frameRequest (k : ScreenNo) (last : Half) (wait : Bool) : Statement (.frameRequest k last wait) := by
  intro _ m hm
  simp only [Instr.message, Option.some.injEq] at hm
  subst hm
  simp [maxBody_eq]

theorem holdDeadline (k : ScreenNo) : Statement (.holdDeadline k) := by
  intro _ m hm
  simp [Instr.message, Instr.commandBody] at hm

theorem screenSilenceDeadline (k : ScreenNo) : Statement (.screenSilenceDeadline k) := by
  intro _ m hm
  simp [Instr.message, Instr.commandBody] at hm

theorem controlSilenceDeadline (l : Side) : Statement (.controlSilenceDeadline l) := by
  intro _ m hm
  simp [Instr.message, Instr.commandBody] at hm

theorem unknownKind (l : Side) (tag : Byte) : Statement (.unknownKind l tag) := by
  intro _ m hm
  simp [Instr.message, Instr.commandBody] at hm

theorem status (l : Side) (tag : Byte) : Statement (.status l tag) := by
  intro _ m hm
  simp only [Instr.message, Instr.commandBody, Option.map_some, Option.some.injEq] at hm
  subst hm
  simp [maxBody_eq]

theorem readRunner (l : Side) (tag : Byte) (bib : Half) : Statement (.readRunner l tag bib) := by
  intro _ m hm
  simp only [Instr.message, Instr.commandBody, Option.map_some, Option.some.injEq] at hm
  subst hm
  simp [maxBody_eq]

theorem readPort (l : Side) (tag : Byte) (port : Byte) : Statement (.readPort l tag port) := by
  intro _ m hm
  simp only [Instr.message, Instr.commandBody, Option.map_some, Option.some.injEq] at hm
  subst hm
  simp [maxBody_eq]

theorem readScreen (l : Side) (tag : Byte) (screen : Byte) : Statement (.readScreen l tag screen) := by
  intro _ m hm
  simp only [Instr.message, Instr.commandBody, Option.map_some, Option.some.injEq] at hm
  subst hm
  simp [maxBody_eq]

theorem readParkList (l : Side) (tag : Byte) (start : Option Byte) : Statement (.readParkList l tag start) := by
  intro _ m hm
  simp only [Instr.message, Instr.commandBody, Option.map_some, Option.some.injEq] at hm
  subst hm
  have h1 := optSize_le start.isSome 1
  simp [maxBody_eq]
  omega

theorem readTallies (l : Side) (tag : Byte) : Statement (.readTallies l tag) := by
  intro _ m hm
  simp only [Instr.message, Instr.commandBody, Option.map_some, Option.some.injEq] at hm
  subst hm
  simp [maxBody_eq]

theorem readWatchLog (l : Side) (tag : Byte) (count : Byte) : Statement (.readWatchLog l tag count) := by
  intro _ m hm
  simp only [Instr.message, Instr.commandBody, Option.map_some, Option.some.injEq] at hm
  subst hm
  simp [maxBody_eq]

theorem readConditions (l : Side) (tag : Byte) : Statement (.readConditions l tag) := by
  intro _ m hm
  simp only [Instr.message, Instr.commandBody, Option.map_some, Option.some.injEq] at hm
  subst hm
  simp [maxBody_eq]

theorem ackConditions (l : Side) (tag : Byte) (conds : List Byte) : Statement (.ackConditions l tag conds) := by
  intro hw m hm
  simp only [Instr.message, Instr.commandBody, Option.map_some, Option.some.injEq] at hm
  subst hm
  have := Instr.wellFormed_body hw
  simp only [Instr.listBodyLength, commandHead] at this
  simp
  omega

theorem setMask (l : Side) (tag : Byte) (conds : List Byte) : Statement (.setMask l tag conds) := by
  intro hw m hm
  simp only [Instr.message, Instr.commandBody, Option.map_some, Option.some.injEq] at hm
  subst hm
  have := Instr.wellFormed_body hw
  simp only [Instr.listBodyLength, commandHead] at this
  simp
  omega

theorem claim (l : Side) (tag : Byte) : Statement (.claim l tag) := by
  intro _ m hm
  simp only [Instr.message, Instr.commandBody, Option.map_some, Option.some.injEq] at hm
  subst hm
  simp [maxBody_eq]

theorem seize (l : Side) (tag : Byte) : Statement (.seize l tag) := by
  intro _ m hm
  simp only [Instr.message, Instr.commandBody, Option.map_some, Option.some.injEq] at hm
  subst hm
  simp [maxBody_eq]

theorem release (l : Side) (tag : Byte) : Statement (.release l tag) := by
  intro _ m hm
  simp only [Instr.message, Instr.commandBody, Option.map_some, Option.some.injEq] at hm
  subst hm
  simp [maxBody_eq]

theorem pass (l : Side) (tag : Byte) : Statement (.pass l tag) := by
  intro _ m hm
  simp only [Instr.message, Instr.commandBody, Option.map_some, Option.some.injEq] at hm
  subst hm
  simp [maxBody_eq]

theorem startClock (l : Side) (tag : Byte) (preset : Option Word32) : Statement (.startClock l tag preset) := by
  intro _ m hm
  simp only [Instr.message, Instr.commandBody, Option.map_some, Option.some.injEq] at hm
  subst hm
  have h1 := optSize_le preset.isSome 4
  simp [maxBody_eq]
  omega

theorem stopClock (l : Side) (tag : Byte) : Statement (.stopClock l tag) := by
  intro _ m hm
  simp only [Instr.message, Instr.commandBody, Option.map_some, Option.some.injEq] at hm
  subst hm
  simp [maxBody_eq]

theorem gun (l : Side) (tag : Byte) (wave : Byte) (time : Option Word32) : Statement (.gun l tag wave time) := by
  intro _ m hm
  simp only [Instr.message, Instr.commandBody, Option.map_some, Option.some.injEq] at hm
  subst hm
  have h1 := optSize_le time.isSome 4
  simp [maxBody_eq]
  omega

theorem setPoint (l : Side) (tag : Byte) (point : Byte) (distance : Half) (policy : Byte) (display : Bool) :
    Statement (.setPoint l tag point distance policy display) := by
  intro _ m hm
  simp only [Instr.message, Instr.commandBody, Option.map_some, Option.some.injEq] at hm
  subst hm
  simp [maxBody_eq]

theorem clearPoint (l : Side) (tag : Byte) (point : Byte) : Statement (.clearPoint l tag point) := by
  intro _ m hm
  simp only [Instr.message, Instr.commandBody, Option.map_some, Option.some.injEq] at hm
  subst hm
  simp [maxBody_eq]

theorem setPort (l : Side) (tag : Byte) (port : Byte) (point : Option Byte) (allowance : Option Half) :
    Statement (.setPort l tag port point allowance) := by
  intro _ m hm
  simp only [Instr.message, Instr.commandBody, Option.map_some, Option.some.injEq] at hm
  subst hm
  have h1 := putChoice_length putByte point 1 fun _ => rfl
  have h2 := optSize_le allowance.isSome 2
  simp [maxBody_eq]
  omega

theorem setLimits (l : Side) (tag : Byte) (limits : LimitsArgs) : Statement (.setLimits l tag limits) := by
  intro _ m hm
  simp only [Instr.message, Instr.commandBody, Option.map_some, Option.some.injEq] at hm
  subst hm
  simp only [putLimits, List.length_append, List.length_cons, putOptHalf_length, maxBody_eq]
  have h := fun o : Option Half => optSize_le o.isSome 2
  have h1 := h limits.minPace
  have h2 := h limits.confirmWindow
  have h3 := h limits.dwellGap
  have h4 := h limits.maxDwell
  have h5 := h limits.projectionFloor
  have h6 := h limits.staleHorizon
  omega

theorem setProfile (l : Side) (tag : Byte) (screen : Byte) (profile : ProfileArgs) :
    Statement (.setProfile l tag screen profile) := by
  intro hw m hm
  simp only [Instr.message, Instr.commandBody, Option.map_some, Option.some.injEq] at hm
  subst hm
  have := Instr.wellFormed_body hw
  simp only [Instr.listBodyLength, commandHead] at this
  simp only [putProfile, List.length_append, List.length_cons, putOptFlag_length, putByte_length, putHalf_length,
    putOptHalf_length, putBytes_length, putFlag_length]
  omega

theorem register (l : Side) (tag : Byte) (bib : Half) (wave : Byte) (chips : List Word32) (name : Option Name) :
    Statement (.register l tag bib wave chips name) := by
  intro hw m hm
  simp only [Instr.message, Instr.commandBody, Option.map_some, Option.some.injEq] at hm
  subst hm
  have := Instr.wellFormed_body hw
  simp only [Instr.listBodyLength, commandHead] at this
  simp
  omega

theorem remove (l : Side) (tag : Byte) (bib : Half) : Statement (.remove l tag bib) := by
  intro _ m hm
  simp only [Instr.message, Instr.commandBody, Option.map_some, Option.some.injEq] at hm
  subst hm
  simp [maxBody_eq]

theorem setName (l : Side) (tag : Byte) (bib : Half) (name : Option Name) : Statement (.setName l tag bib name) := by
  intro hw m hm
  simp only [Instr.message, Instr.commandBody, Option.map_some, Option.some.injEq] at hm
  subst hm
  have := Instr.wellFormed_body hw
  simp only [Instr.listBodyLength, commandHead] at this
  simp
  omega

theorem amend (l : Side) (tag : Byte) (bib : Half) (point : Byte) (time : Word32) :
    Statement (.amend l tag bib point time) := by
  intro _ m hm
  simp only [Instr.message, Instr.commandBody, Option.map_some, Option.some.injEq] at hm
  subst hm
  have h1 := putChoice_length putWord (some time) 4 fun _ => rfl
  simp [maxBody_eq]
  omega

theorem amendClear (l : Side) (tag : Byte) (bib : Half) (point : Byte) : Statement (.amendClear l tag bib point) := by
  intro _ m hm
  simp only [Instr.message, Instr.commandBody, Option.map_some, Option.some.injEq] at hm
  subst hm
  have h1 := putChoice_length putWord none 4 fun _ => rfl
  simp [maxBody_eq]
  omega

theorem accept (l : Side) (tag : Byte) (bib : Half) (point : Byte) : Statement (.accept l tag bib point) := by
  intro _ m hm
  simp only [Instr.message, Instr.commandBody, Option.map_some, Option.some.injEq] at hm
  subst hm
  simp [maxBody_eq]

theorem withdraw (l : Side) (tag : Byte) (bib : Half) : Statement (.withdraw l tag bib) := by
  intro _ m hm
  simp only [Instr.message, Instr.commandBody, Option.map_some, Option.some.injEq] at hm
  subst hm
  simp [maxBody_eq]

theorem disqualify (l : Side) (tag : Byte) (bib : Half) : Statement (.disqualify l tag bib) := by
  intro _ m hm
  simp only [Instr.message, Instr.commandBody, Option.map_some, Option.some.injEq] at hm
  subst hm
  simp [maxBody_eq]

theorem reinstate (l : Side) (tag : Byte) (bib : Half) : Statement (.reinstate l tag bib) := by
  intro _ m hm
  simp only [Instr.message, Instr.commandBody, Option.map_some, Option.some.injEq] at hm
  subst hm
  simp [maxBody_eq]

theorem bind (l : Side) (tag : Byte) (chip : Word32) (bib : Half) : Statement (.bind l tag chip bib) := by
  intro _ m hm
  simp only [Instr.message, Instr.commandBody, Option.map_some, Option.some.injEq] at hm
  subst hm
  simp [maxBody_eq]

theorem discard (l : Side) (tag : Byte) (chip : Word32) : Statement (.discard l tag chip) := by
  intro _ m hm
  simp only [Instr.message, Instr.commandBody, Option.map_some, Option.some.injEq] at hm
  subst hm
  simp [maxBody_eq]

theorem setWatch (l : Side) (tag : Byte) (bibs : List Half) : Statement (.setWatch l tag bibs) := by
  intro hw m hm
  simp only [Instr.message, Instr.commandBody, Option.map_some, Option.some.injEq] at hm
  subst hm
  have := Instr.wellFormed_body hw
  simp only [Instr.listBodyLength, commandHead] at this
  simp
  omega

theorem setTally (l : Side) (tag : Byte) (tally : Byte) (cls : Byte) (qualifiers : List Byte) (limit : Option Word32) (stop : Bool) :
    Statement (.setTally l tag tally cls qualifiers limit stop) := by
  intro hw m hm
  simp only [Instr.message, Instr.commandBody, Option.map_some, Option.some.injEq] at hm
  subst hm
  have := Instr.wellFormed_body hw
  simp only [Instr.listBodyLength, commandHead] at this
  simp
  omega

theorem freeze (l : Side) (tag : Byte) (triggers : Option (List Byte)) : Statement (.freeze l tag triggers) := by
  intro hw m hm
  simp only [Instr.message, Instr.commandBody, Option.map_some, Option.some.injEq] at hm
  subst hm
  have := Instr.wellFormed_body hw
  simp only [Instr.listBodyLength, commandHead] at this
  simp
  omega

theorem thaw (l : Side) (tag : Byte) : Statement (.thaw l tag) := by
  intro _ m hm
  simp only [Instr.message, Instr.commandBody, Option.map_some, Option.some.injEq] at hm
  subst hm
  simp [maxBody_eq]

theorem clearTallies (l : Side) (tag : Byte) : Statement (.clearTallies l tag) := by
  intro _ m hm
  simp only [Instr.message, Instr.commandBody, Option.map_some, Option.some.injEq] at hm
  subst hm
  simp [maxBody_eq]

theorem store (l : Side) (tag : Byte) : Statement (.store l tag) := by
  intro _ m hm
  simp only [Instr.message, Instr.commandBody, Option.map_some, Option.some.injEq] at hm
  subst hm
  simp [maxBody_eq]

theorem eraseCompletion : Statement .eraseCompletion := by
  intro _ m hm
  simp [Instr.message, Instr.commandBody] at hm

theorem writeCompletion : Statement .writeCompletion := by
  intro _ m hm
  simp [Instr.message, Instr.commandBody] at hm

theorem raceReset (l : Side) (tag : Byte) : Statement (.raceReset l tag) := by
  intro _ m hm
  simp only [Instr.message, Instr.commandBody, Option.map_some, Option.some.injEq] at hm
  subst hm
  simp [maxBody_eq]

theorem raceResetCompletion : Statement .raceResetCompletion := by
  intro _ m hm
  simp [Instr.message, Instr.commandBody] at hm

theorem restart (l : Side) (tag : Byte) : Statement (.restart l tag) := by
  intro _ m hm
  simp only [Instr.message, Instr.commandBody, Option.map_some, Option.some.injEq] at hm
  subst hm
  simp [maxBody_eq]

theorem runnerRecordClearing (bib : Half) : Statement (.runnerRecordClearing bib) := by
  intro _ m hm
  simp [Instr.message, Instr.commandBody] at hm

end Laws.BodyFits

end Sys2Proof
end

