-- ==== Sys2Proof/Laws/Registry.lean ====
section
/-! SUPPORT. What the searches of the registry find: the finish, the fit of a distance, the record of a bib, and the
place that a crossing takes. -/

namespace Sys2Proof.Machine

set_option Elab.async false

/-- A member of a vector, by its index. -/
theorem exists_mem_toList {α : Type} {n : Nat} (v : Vector α n) (P : α → Prop) :
    (∃ x ∈ v.toList, P x) ↔ ∃ i : Fin n, P v[i] := by
  constructor
  · rintro ⟨x, hx, h⟩
    rw [Vector.mem_toList_iff] at hx
    obtain ⟨i, hi, rfl⟩ := Vector.mem_iff_getElem.1 hx
    exact ⟨⟨i, hi⟩, h⟩
  · rintro ⟨i, h⟩
    exact ⟨_, by simp, h⟩

theorem State.noGun_iff (s : State) : s.noGun = true ↔ ∀ w : Wave, s.clock.guns[w] = none := by
  simp only [State.noGun, List.all_eq_true, Option.isNone_iff_eq_none]
  refine ⟨fun h w => h _ (by simp), fun h g hg => ?_⟩
  rw [Vector.mem_toList_iff] at hg
  obtain ⟨i, hi, rfl⟩ := Vector.mem_iff_getElem.1 hg
  exact h ⟨i, hi⟩

theorem Runner.holdsCrossing_iff (r : Runner) : r.holdsCrossing = true ↔ ∃ p : Point, r.crossings[p].isSome = true := by
  rw [Runner.holdsCrossing, List.any_eq_true]
  exact exists_mem_toList r.crossings fun x => x.isSome = true

/-- The finish is the highest configured point (R68). -/
theorem Course.finish_eq_some (course : Course) (p : Point) :
    course.finish = some p ↔ course[p].isSome = true ∧ ∀ q : Point, p < q → course[q] = none := by
  have sorted : (List.finRange 10).reverse.Pairwise (· > ·) := by decide
  unfold Course.finish
  constructor
  · intro h
    refine ⟨by simpa using List.find?_some h, fun q hq => ?_⟩
    rw [List.find?_eq_some_iff_append] at h
    obtain ⟨_, as, bs, e, h2⟩ := h
    rw [e] at sorted
    have hm : q ∈ as ++ p :: bs := by rw [← e]; simp
    rw [List.mem_append, List.mem_cons] at hm
    rcases hm with hm | rfl | hm
    · simpa using h2 q hm
    · exact absurd hq (lt_irrefl _)
    · exact absurd hq (not_lt.2 (le_of_lt ((List.pairwise_cons.1 (List.pairwise_append.1 sorted).2.1).1 q hm)))
  · rintro ⟨h1, h2⟩
    have some_ : ((List.finRange 10).reverse.find? fun p : Point => course[p].isSome).isSome = true := by
      rw [List.find?_isSome]
      exact ⟨p, by simp, h1⟩
    obtain ⟨q, hq⟩ := Option.isSome_iff_exists.1 some_
    rw [hq]
    have hs : course[q].isSome = true := by simpa using List.find?_some hq
    rw [List.find?_eq_some_iff_append] at hq
    obtain ⟨_, as, bs, e, h3⟩ := hq
    rw [e] at sorted
    have hm : p ∈ as ++ q :: bs := by rw [← e]; simp
    rw [List.mem_append, List.mem_cons] at hm
    rcases hm with hm | rfl | hm
    · have := h3 p hm
      rw [h1] at this
      simp at this
    · rfl
    · rw [h2 q ((List.pairwise_cons.1 (List.pairwise_append.1 sorted).2.1).1 p hm)] at hs
      simp at hs

theorem lowerConfigured_iff (course : Course) (p : Point) :
    lowerConfigured course p = true ↔ ∀ q : Point, q < p → course[q].isSome = true := by
  simp only [lowerConfigured, List.all_eq_true, List.mem_finRange, true_implies, Bool.or_eq_true, Bool.not_eq_true',
    decide_eq_false_iff_not]
  exact ⟨fun h q hq => (h q).resolve_left (not_not.2 hq), fun h q => (em (q < p)).symm.imp id (h q)⟩

theorem lowerDistance_eq_some (course : Course) (p : Point) (d : Nat) :
    lowerDistance course p = some d ↔ ∃ q : Point, q.val + 1 = p.val ∧ ∃ x, course[q] = some x ∧ x.distance = d := by
  unfold lowerDistance
  split
  · rename_i h
    rw [Option.map_eq_some_iff]
    constructor
    · rintro ⟨x, e, rfl⟩
      exact ⟨⟨p.val - 1, by omega⟩, by simp; omega, x, e, rfl⟩
    · rintro ⟨q, hq, x, e, rfl⟩
      refine ⟨x, ?_, rfl⟩
      rw [← e]
      simp only [Fin.getElem_fin]
      congr 1
      omega
  · simp
    omega

theorem upperDistance_eq_some (course : Course) (p : Point) (d : Nat) :
    upperDistance course p = some d ↔ ∃ q : Point, q.val = p.val + 1 ∧ ∃ x, course[q] = some x ∧ x.distance = d := by
  unfold upperDistance
  split
  · rename_i h
    rw [Option.map_eq_some_iff]
    constructor
    · rintro ⟨x, e, rfl⟩
      exact ⟨⟨p.val + 1, by omega⟩, rfl, x, e, rfl⟩
    · rintro ⟨q, hq, x, e, rfl⟩
      refine ⟨x, ?_, rfl⟩
      rw [← e]
      simp only [Fin.getElem_fin]
      congr 1
      omega
  · simp
    omega

/-! ## The runner table -/

theorem State.runner_eq_none (s : State) (bib : Half) : s.runner bib = none ↔ ∀ r ∈ s.registry.runners, r.bib ≠ bib := by
  simp [State.runner, List.find?_eq_none]

theorem State.runner_bib {s : State} {bib : Half} {r : Runner} (h : s.runner bib = some r) : r.bib = bib := by
  simpa using List.find?_some h

theorem Runner.derived_bib (course : Course) (r : Runner) : (r.derived course).bib = r.bib := by
  unfold Runner.derived
  split <;> rfl

/-- Writing a record changes the record of its bib and no other. -/
theorem State.putRunner_runner {s : State} {r x : Runner} {bib : Half} (h : s.runner bib = some r) (hb : x.bib = bib) :
    (s.putRunner x).runner bib = some x ∧ ∀ other, other ≠ bib → (s.putRunner x).runner other = s.runner other := by
  have e := State.runner_bib h
  subst hb
  unfold State.runner at *
  refine ⟨?_, fun other ho => ?_⟩
  · show List.find? _ (s.registry.runners.map _) = _
    rw [List.find?_map]
    have f : ((fun y : Runner => y.bib == x.bib) ∘ fun y : Runner => if (y.bib == x.bib) = true then x else y) =
        fun y => y.bib == x.bib := by
      funext y
      simp only [Function.comp]
      split <;> simp_all
    rw [f, h]
    simp [e]
  · show List.find? _ (s.registry.runners.map _) = _
    rw [List.find?_map]
    have f : ((fun y : Runner => y.bib == other) ∘ fun y : Runner => if (y.bib == x.bib) = true then x else y) =
        fun y => y.bib == other := by
      funext y
      simp only [Function.comp]
      split
      · rename_i hh
        simp only [beq_iff_eq] at hh
        rw [hh]
      · rfl
    rw [f]
    cases hf : s.registry.runners.find? fun y => y.bib == other with
    | none => rfl
    | some y =>
      have : y.bib = other := by simpa using List.find?_some hf
      simp only [Option.map_some, beq_iff_eq]
      rw [if_neg fun k => ho (this ▸ k)]

/-- Taking a place: the counter rises, up to its greatest value, only for a crossing that has none (R81, R97). -/
theorem State.takePlace_eq (s : State) (p : Point) (cr : Crossing) :
    s.takePlace p cr =
      ({ s with registry := { s.registry with
          counters := if cr.place.isSome then s.registry.counters
            else s.registry.counters.set p (nextPlace s.registry.counters[p]) } },
       { cr with place := some (cr.place.getD (nextPlace s.registry.counters[p])) }) := by
  unfold State.takePlace
  cases h : cr.place with
  | some n => cases cr; simp only at h; simp [h]
  | none => simp; rfl

/-- The two outcomes of a check run (R96). -/
theorem State.judge_eq (s : State) (r : Runner) (p : Point) (cr : Crossing) :
    (∀ why, checkReason s r p cr.time = some why → s.judge r p cr = (s, { cr with suspect := some why })) ∧
    (checkReason s r p cr.time = none → s.judge r p cr = s.takePlace p { cr with suspect := none }) := by
  refine ⟨?_, ?_⟩ <;> intros <;> simp [State.judge, *]

end Sys2Proof.Machine
end

