-- ==== Sys2Proof/Laws/Split.lean ====
section
/-! SUPPORT. What the figures of Split Arithmetic and of Time Alignment come to: the usable start, and rounding half away
from zero. -/

namespace Sys2Proof.Machine

/-- The start time is the time of a non-suspect start crossing that is not later (R114). -/
theorem startTime_eq_some (cs : Crossings) (t v : Nat) :
    startTime cs t = some v ↔ ∃ c, cs[(0 : Point)] = some c ∧ c.suspect = none ∧ c.time ≤ t ∧ c.time = v := by
  unfold startTime usable
  rcases h : cs[(0 : Point)] with _ | c
  · simp
  · by_cases a : c.suspect = none <;> by_cases b : c.time ≤ t <;> simp [Option.filter, a, b]

/-- There is no usable start time when every non-suspect start crossing is later (R114). -/
theorem startTime_eq_none (cs : Crossings) (t : Nat) :
    startTime cs t = none ↔ ∀ c, cs[(0 : Point)] = some c → c.suspect = none → t < c.time := by
  unfold startTime usable
  rcases h : cs[(0 : Point)] with _ | c
  · simp
  · by_cases a : c.suspect = none <;> by_cases b : c.time ≤ t <;> simp [Option.filter, a, b]
    omega

/-- Gun elapsed is the time since a gun that is not later (R113). -/
theorem gunElapsed_eq_some (gun : Option Nat) (t n : Nat) :
    gunElapsed gun t = some n ↔ ∃ g, gun = some g ∧ g ≤ t ∧ t - g = n := by
  unfold gunElapsed
  cases gun with
  | none => simp
  | some g => by_cases b : g ≤ t <;> simp [Option.filter, b]

/-- The rounded quotient lies within half of the divisor, and away from zero at exactly half (R40, R44). -/
theorem roundHalfAway_nearest (n : Int) {d : Int} (hd : 0 < d) :
    2 * |roundHalfAway n d * d - n| ≤ d ∧ (2 * |roundHalfAway n d * d - n| = d → |n| < |roundHalfAway n d * d|) := by
  unfold roundHalfAway
  split
  · have e := Int.mul_ediv_add_emod (2 * n + d) (2 * d)
    have low := Int.emod_nonneg (2 * n + d) (by omega : 2 * d ≠ 0)
    have high := Int.emod_lt_of_pos (2 * n + d) (by omega : 0 < 2 * d)
    generalize (2 * n + d) / (2 * d) = q at *
    generalize (2 * n + d) % (2 * d) = r at *
    have e' : 2 * (q * d) + r = 2 * n + d := by linarith [mul_comm d q, e]
    generalize q * d = z at *
    rcases abs_cases (z - n) with a | a <;> rcases abs_cases n with b | b <;> rcases abs_cases z with c | c <;> omega
  · have e := Int.mul_ediv_add_emod (2 * -n + d) (2 * d)
    have low := Int.emod_nonneg (2 * -n + d) (by omega : 2 * d ≠ 0)
    have high := Int.emod_lt_of_pos (2 * -n + d) (by omega : 0 < 2 * d)
    generalize (2 * -n + d) / (2 * d) = q at *
    generalize (2 * -n + d) % (2 * d) = r at *
    have e' : 2 * (q * d) + r = 2 * -n + d := by linarith [mul_comm d q, e]
    rw [neg_mul]
    generalize q * d = z at *
    rcases abs_cases (-z - n) with a | a <;> rcases abs_cases n with b | b <;> rcases abs_cases (-z) with c | c <;> omega

end Sys2Proof.Machine
end

