-- ==== Sys2Proof/Laws/Traffic.lean ====
section
/-! SUPPORT. What the messages of decoders and screens and the deadlines of the part can do: they leave the clock, the
store, the token, the settings of the Registry and the state of a Race Reset as they are. -/

namespace Sys2Proof.Machine

set_option Elab.async false

/-- `t` has the clock, the store, the token, the course, ports, limits, bibs and chip map, the state of a Race Reset and
the control links (but for their pending sets) of `s`. -/
structure TrafficOnly (s t : State) : Prop where
  clock : t.clock = s.clock
  store : t.store = s.store
  startUp : t.startUp = s.startUp
  restartDue : t.restartDue = s.restartDue
  elapsed : t.elapsed = s.elapsed
  pending : t.pending = s.pending
  token : t.control.token = s.control.token
  claim : t.control.claim = s.control.claim
  watchList : t.control.watchList = s.control.watchList
  resetCause : t.control.resetCause = s.control.resetCause
  course : t.registry.course = s.registry.course
  ports : t.registry.ports = s.registry.ports
  limits : t.registry.limits = s.registry.limits
  chipMap : t.registry.chipMap = s.registry.chipMap
  state : t.registry.state = s.registry.state
  requester : t.registry.requester = s.registry.requester
  clearing : t.registry.clearing = s.registry.clearing
  bibs : t.registry.bibs = s.registry.bibs
  link : ∀ l, (t.controlLink l).link = (s.controlLink l).link
  timer : ∀ l, (t.controlLink l).timer = (s.controlLink l).timer
  inProgress : ∀ l, (t.controlLink l).inProgress = (s.controlLink l).inProgress
  mask : ∀ l, (t.controlLink l).mask = (s.controlLink l).mask

namespace TrafficOnly

theorem refl (s : State) : TrafficOnly s s := by constructor <;> intros <;> rfl

theorem trans {s t u : State} (h : TrafficOnly s t) (k : TrafficOnly t u) : TrafficOnly s u where
  clock := k.clock.trans h.clock
  store := k.store.trans h.store
  startUp := k.startUp.trans h.startUp
  restartDue := k.restartDue.trans h.restartDue
  elapsed := k.elapsed.trans h.elapsed
  pending := k.pending.trans h.pending
  token := k.token.trans h.token
  claim := k.claim.trans h.claim
  watchList := k.watchList.trans h.watchList
  resetCause := k.resetCause.trans h.resetCause
  course := k.course.trans h.course
  ports := k.ports.trans h.ports
  limits := k.limits.trans h.limits
  chipMap := k.chipMap.trans h.chipMap
  state := k.state.trans h.state
  requester := k.requester.trans h.requester
  clearing := k.clearing.trans h.clearing
  bibs := k.bibs.trans h.bibs
  link := fun l => (k.link l).trans (h.link l)
  timer := fun l => (k.timer l).trans (h.timer l)
  inProgress := fun l => (k.inProgress l).trans (h.inProgress l)
  mask := fun l => (k.mask l).trans (h.mask l)

end TrafficOnly

theorem RecordsOnly.toTraffic {s t : State} (h : RecordsOnly s t) : TrafficOnly s t where
  clock := h.clock
  store := h.store
  startUp := h.startUp
  restartDue := h.restartDue
  elapsed := h.elapsed
  pending := h.pending
  token := h.token
  claim := h.claim
  watchList := h.watchList
  resetCause := h.resetCause
  course := h.course
  ports := h.ports
  limits := h.limits
  chipMap := h.chipMap
  state := h.state
  requester := h.requester
  clearing := h.clearing
  bibs := h.bibs
  link := h.link
  timer := h.timer
  inProgress := h.inProgress
  mask := h.mask

theorem MarksOnly.toTraffic {s t : State} (h : MarksOnly s t) : TrafficOnly s t := h.toRecordsOnly.toTraffic

theorem DisplayOnly.toTraffic {s t : State} (h : DisplayOnly s t) : TrafficOnly s t := h.toRecordsOnly.toTraffic

theorem TakesOnly.toTraffic {s t : State} (h : TakesOnly s t) : TrafficOnly s t where
  clock := h.clock
  store := h.store
  startUp := h.startUp
  restartDue := h.restartDue
  elapsed := h.elapsed
  pending := h.pending
  token := h.token
  claim := h.claim
  watchList := h.watchList
  resetCause := h.resetCause
  course := by rw [h.registry]
  ports := by rw [h.registry]
  limits := by rw [h.registry]
  chipMap := by rw [h.registry]
  state := by rw [h.registry]
  requester := by rw [h.registry]
  clearing := by rw [h.registry]
  bibs := by rw [h.registry]
  link := h.link
  timer := h.timer
  inProgress := h.inProgress
  mask := h.mask

theorem State.withIntake_traffic (s : State) (p : Port) (m : MatIntake) : TrafficOnly s (s.withIntake p m) := by
  constructor <;> intros <;> rfl

theorem State.withAlign_traffic (s : State) (p : Port) (a : Alignment) : TrafficOnly s (s.withAlign p a) := by
  constructor <;> intros <;> rfl

theorem State.withPassage_traffic (s : State) (u : PassageUnit) : TrafficOnly s (s.withPassage u) := by
  constructor <;> intros <;> rfl

theorem State.transmit_traffic (s : State) (m : Sent) : TrafficOnly s (s.transmit m) := by
  constructor <;> intros <;> rfl

theorem State.hearMat_traffic (s : State) (p : Port) : TrafficOnly s (s.hearMat p) := by
  unfold State.hearMat
  split
  · exact s.withIntake_traffic p _
  · exact .refl s

theorem State.openSession_traffic (s : State) (p : Port) : TrafficOnly s (s.openSession p) :=
  (s.withIntake_traffic p _).trans (State.transmit_traffic _ _)

theorem State.takeReport_traffic (s : State) (p : Port) (d : Word32) : TrafficOnly s (s.takeReport p d) := by
  unfold State.takeReport
  dsimp only
  have appended : ∀ a c b, TrafficOnly s (((s.withAlign p a).count c p).raiseIf b .driftLimit) := fun a c b =>
    ((s.withAlign_traffic p a).trans (State.count_marks _ _ _).toTraffic).trans (State.raiseIf_marks _ _ _).toTraffic
  split
  · exact (s.count_marks _ _).toTraffic
  · split
    · exact appended _ _ _
    · split
      · exact (s.count_marks _ _).toTraffic
      · split
        · exact (s.withAlign_traffic p _).trans (State.count_marks _ _ _).toTraffic
        · exact appended _ _ _

theorem State.acceptRead_traffic (s : State) (p : Port) (n : Nat) (seq : Byte) (x : IntakeRead) :
    TrafficOnly s (s.acceptRead p n seq x) := by
  have h := (s.countTimes_marks .readLost p n).toTraffic
  unfold State.acceptRead
  dsimp only
  split
  · exact ((h.trans (State.withIntake_traffic _ p _)).trans (State.count_marks _ _ _).toTraffic).trans
      (State.creditCheck_takes _ p).toTraffic
  · refine TrafficOnly.trans ?_ (State.takeReads_takes _).toTraffic
    have k := (h.trans (State.withIntake_traffic _ p ((s.intake[p].refund n).accept seq x))).trans
      (State.count_marks _ .readAccepted p).toTraffic
    split
    · exact k
    · exact k.trans (State.creditCheck_takes _ p).toTraffic

theorem State.classifyRead_traffic (s : State) (p : Port) (seq : Byte) (x : IntakeRead) :
    TrafficOnly s (s.classifyRead p seq x) := by
  unfold State.classifyRead
  dsimp only
  split
  · exact ((s.count_marks _ _).trans (State.raise_marks _ _)).toTraffic
  · split
    · exact s.acceptRead_traffic p _ seq x
    · exact (s.count_marks _ _).toTraffic

theorem State.goStale_traffic (s : State) (p : Port) : TrafficOnly s (s.goStale p) :=
  (s.withAlign_traffic p _).trans (State.raise_marks _ _).toTraffic

theorem State.moveStale_traffic (s : State) (p : Port) : TrafficOnly s (s.moveStale p) := by
  unfold State.moveStale
  dsimp only
  split
  · split
    · exact s.goStale_traffic p
    · exact s.withAlign_traffic p _
  · exact .refl s

theorem State.closePassage_traffic (s : State) (p : Port) (x : Passage) : TrafficOnly s (s.closePassage p x) :=
  (s.withPassage_traffic _).trans (State.closeCrossing_records _ p x).toTraffic

theorem State.closeOverdue_traffic (s : State) (p : Port) : TrafficOnly s (s.closeOverdue p) :=
  (s.withPassage_traffic _).trans (State.closeAll_records _ p _).toTraffic

theorem State.clearPassages_traffic (s : State) (p : Port) (b : Bool) : TrafficOnly s (s.clearPassages p b) := by
  unfold State.clearPassages
  dsimp only
  split
  · exact s.withPassage_traffic _
  · exact (s.withPassage_traffic _).trans (State.closeAll_records _ p _).toTraffic

theorem State.applyRead_traffic (s : State) (h : HeldRead) : TrafficOnly s (s.applyRead h) := by
  have force : TrafficOnly s (s.forceOldest h.port) := by
    unfold State.forceOldest
    split
    · exact .refl s
    · exact ((s.withPassage_traffic _).trans (State.closeCrossing_records _ _ _).toTraffic).trans
        (State.count_marks _ _ _).toTraffic
  unfold State.applyRead
  split
  · exact s.withPassage_traffic _
  · split
    · exact s.withPassage_traffic _
    · exact force.trans (State.withPassage_traffic _ _)

theorem State.finishRead_traffic (s : State) (h : HeldRead) : TrafficOnly s (s.finishRead h) := by
  unfold State.finishRead
  split
  · exact s.applyRead_traffic h
  · exact (s.handOnRead_records h).toTraffic
  · exact .refl s

theorem State.closeTouched_traffic (s : State) (h : HeldRead) : TrafficOnly s (s.closeTouched h) := by
  unfold State.closeTouched
  split
  · split
    · split
      · exact s.closePassage_traffic _ _
      · exact .refl s
    · exact .refl s
  · exact .refl s

/-! ## The commands -/

/-- The commands that decoders, screens and the part's own deadlines bring. -/
def isTraffic : Instr → Bool
  | .matHello .. | .read .. | .syncReport .. | .matSilenceDeadline .. | .discardedFrame .. | .byteGapTimeout ..
  | .staleDeadline .. | .readCompletion | .closeDeadline .. | .dueDeadline .. | .lineExpiry .. | .screenHello ..
  | .frameRequest .. | .holdDeadline .. | .screenSilenceDeadline .. => true
  | _ => false

/-- A command of the traffic leaves the clock, the store, the token, the settings and the state of a Race Reset as they
are. -/
theorem exec_traffic {i : Instr} {s t : State} (hi : isTraffic i = true) (h : exec i s = .next t) :
    TrafficOnly s t := by
  have disc : ∀ l, TrafficOnly s (s.discardFrame l) := by
    intro l
    unfold State.discardFrame
    split
    · exact (s.count_marks _ _).toTraffic
    · exact .refl s
    · exact .refl s
  cases i <;> first | exact Bool.noConfusion hi | skip
  case matHello p =>
    simp only [exec, execMatHello, Host.Outcome.next.injEq] at h
    subst h
    split
    · exact (s.withAlign_traffic p _).trans (State.openSession_traffic _ p)
    · exact s.openSession_traffic p
  case read p seq chip dtime level =>
    simp only [exec, execRead, Host.Outcome.next.injEq] at h
    subst h
    split
    · exact (s.hearMat_traffic p).trans (State.classifyRead_traffic _ p _ _)
    · exact (s.count_marks _ _).toTraffic
  case syncReport p d =>
    simp only [exec, execSyncReport, Host.Outcome.next.injEq] at h
    subst h
    exact (s.hearMat_traffic p).trans (State.takeReport_traffic _ p d)
  case matSilenceDeadline p =>
    simp only [exec, execMatSilenceDeadline, Host.Outcome.next.injEq] at h
    subst h
    split
    · exact (s.withIntake_traffic p _).trans (State.raise_marks _ _).toTraffic
    · exact .refl s
  case discardedFrame l =>
    simp only [exec, execDiscardedFrame, Host.Outcome.next.injEq] at h
    subst h
    exact disc l
  case byteGapTimeout l =>
    simp only [exec, execByteGapTimeout, Host.Outcome.next.injEq] at h
    subst h
    exact disc l
  case staleDeadline p =>
    simp only [exec, execStaleDeadline, Host.Outcome.next.injEq] at h
    subst h
    split
    · exact s.goStale_traffic p
    · exact .refl s
  case readCompletion =>
    simp only [exec, execReadCompletion, Host.Outcome.next.injEq] at h
    subst h
    split
    · exact .refl s
    · exact ((((s.finishRead_traffic _).trans (State.withPassage_traffic _ _)).trans
        (State.returnCredit_takes _ _).toTraffic).trans (State.closeTouched_traffic _ _)).trans
        (State.takeReads_takes _).toTraffic
  case closeDeadline p chip =>
    simp only [exec, execCloseDeadline, Host.Outcome.next.injEq] at h
    subst h
    split
    · exact .refl s
    · split
      · exact s.closePassage_traffic _ _
      · exact .refl s
  case dueDeadline k =>
    simp only [exec, execDueDeadline, Host.Outcome.next.injEq] at h
    subst h
    split
    · exact (s.settleScreen_display k _).toTraffic
    · exact .refl s
  case lineExpiry k line =>
    simp only [exec, execLineExpiry, Host.Outcome.next.injEq] at h
    subst h
    split
    · exact (s.settleScreen_display k _).toTraffic
    · exact .refl s
  case screenHello k =>
    simp only [exec, execScreenHello, Host.Outcome.next.injEq] at h
    subst h
    split
    · exact .refl s
    · exact (s.withScreen_display k _).toTraffic
  case frameRequest k last wait =>
    simp only [exec, execFrameRequest, Host.Outcome.next.injEq] at h
    subst h
    split
    · exact .refl s
    · exact (((s.withScreen_display k _).trans (State.answerHeld_display _ k)).trans
        (State.answerRequest_display _ k _ _)).toTraffic
  case holdDeadline k =>
    simp only [exec, execHoldDeadline, Host.Outcome.next.injEq] at h
    subst h
    split
    · exact (s.answerHeld_display k).toTraffic
    · exact .refl s
  case screenSilenceDeadline k =>
    simp only [exec, execScreenSilenceDeadline, Host.Outcome.next.injEq] at h
    subst h
    split
    · exact ((s.withScreen_display k _).toTraffic).trans (State.raise_marks _ _).toTraffic
    · exact .refl s

end Sys2Proof.Machine
end

