-- ==== Sys2Proof/Tests/Slice0.lean ====
section
/-! SUPPORT. Tests. Expected values come from the worked examples of spec/ or are written out by hand from its rules; the
comment before each group names the place. The theorems named `witness_…` show states and operands that meet the
hypotheses of the obligation of that name, clause by clause. -/

namespace Sys2Proof.Tests

open Sys2Proof.Machine

set_option Elab.async false

/-! ## States -/

/-- The state that a command leaves. -/
def after (c : Instr) (s : State) : State :=
  match exec c s with
  | .next t => t
  | _ => s

/-- The last thing that the part sent. -/
def answer (s : State) : Option Sent := s.sent.getLast?

/-- Start-up is over, both control links are UP and link A holds the token. -/
def base : State :=
  { State.reset with
    startUp := false
    clock := { RaceClock.reset with supervised := true }
    control := { ControlUnit.reset with
      token := .held .a
      linkA := { ControlLink.reset with link := .up, timer := some 10000 }
      linkB := { ControlLink.reset with link := .up, timer := some 10000 } } }

/-- `s` with its clock RUNNING at `v`, its latest pulse the last whole second. -/
def runAt (v : Nat) (s : State) : State :=
  { s with clock := { s.clock with state := .running, value := v, latestPulse := some (v / 1000 * 1000) } }

/-- The course of 5.8. -/
def course58 : Course :=
  #v[some ⟨0, .first, false⟩, some ⟨5000, .peak, true⟩, some ⟨15000, .peak, true⟩, some ⟨21097, .peak, true⟩,
     some ⟨30000, .peak, true⟩, some ⟨42195, .first, true⟩, none, none, none, none]

/-- The ports of 8.8, with port 10 at the finish: 0 and 1 feed point 0, 2 point 1, 3 point 2, 4 and 5 point 3. -/
def ports58 : Vector PortAssignment 12 :=
  #v[⟨some 0, 250⟩, ⟨some 0, 400⟩, ⟨some 1, 250⟩, ⟨some 2, 250⟩, ⟨some 3, 250⟩, ⟨some 3, 250⟩, ⟨none, 250⟩, ⟨none, 250⟩,
     ⟨none, 250⟩, ⟨none, 250⟩, ⟨some 5, 250⟩, ⟨none, 250⟩]

/-- A recorded crossing that is not suspect. -/
def good (time : Nat) (source : Port) (place : Nat) : Crossing :=
  { time, source := .port source, place := some place, estimated := false, confirmed := false, amended := false,
    suspect := none }

/-- Bib 1207 of 6.9: wave 0, chip 5001, crossings at points 0 and 2. -/
def anna : Runner :=
  { bib := 1207, wave := 0, chips := [5001], name := some [0x41, 0x4E, 0x4E, 0x41, 0x20, 0x4B], status := .running
    crossings := ((Vector.replicate 10 none).set 0 (some (good 1263450 0 900))).set 2 (some (good 5048210 3 800)) }

/-- Bib 1530 of 6.10: wave 0, chip 6530, crossings at points 0, 1 and 3. -/
def late : Runner :=
  { bib := 1530, wave := 0, chips := [6530], name := none, status := .running
    crossings := (((Vector.replicate 10 none).set 0 (some (good 1301000 0 950))).set 1
      (some (good 2702000 2 940))).set 3 (some (good 7310500 4 930)) }

/-- The race of chapter 6: wave 0 gunned at 1,200,000, the course of 5.8 locked, bibs 1207 and 1530 on the course. -/
def race : State :=
  { base with
    clock := { state := .running, value := 6892700, limitMark := false, ref := .present, supervised := true,
               latestPulse := some 6892000, guns := (Vector.replicate 16 none).set 0 (some 1200000), locked := true }
    registry := { base.registry with
      course := course58, ports := ports58, runners := [anna, late], chipMap := [(5001, 1207), (6530, 1530)]
      counters := #v[2301, 1000, 1956, 1640, 0, 0, 0, 0, 0, 0] } }

/-- Mat port `p` of `s` UP, with `outstanding` credits, a list, an expected sequence and a grant. -/
def portUp (p : Port) (list : List IntakeRead) (outstanding : Nat) (expected grant : Byte) (unreported : Nat)
    (s : State) : State :=
  s.withIntake p { link := .up, list, outstanding, expected, grant, unreported, timer := some 3000 }

/-- A read. -/
def aRead (chip dtime : Word32) (level : Byte) (arrival : Nat) : IntakeRead := { chip, dtime, level, arrival }

/-- A Race Reset that link A began with tag 17 is in flight, with bib 1207 not yet cleared. -/
def resetting : State :=
  { base with
    registry := { base.registry with
      runners := [anna], chipMap := [(5001, 1207)], state := .resetting, requester := some .a, clearing := [1207] }
    control := { base.control with linkA := { base.control.linkA with inProgress := some { kind := 39, tag := 17 } } } }

/-- The held read of chip 7310 on port 4 (4.6), with a standing. -/
def heldOn4 (standing : Standing) : HeldRead :=
  { chip := 7310, dtime := 0, level := 41, arrival := 6894000, port := 4, takeTime := 6894000, point := 3,
    time := 6893880, estimated := false, standing }

/-- The race with a held read on port 4. -/
def holding (standing : Standing) : State :=
  { race with
    clock := { race.clock with value := 6894100 }
    passage := { race.passage with held := some (heldOn4 standing) } }

/-- A passage. -/
def aPassage (chip : Word32) (first peak : Nat) (level : Byte) (firstTaken lastTaken : Nat) : Passage :=
  { chip, firstTime := first, firstEstimated := false, peakTime := peak, peakLevel := level, peakEstimated := false,
    firstTaken, lastTaken }

/-- The profile of screen 2 in 9.9. -/
def profile99 : Profile :=
  { enabled := true, trigger := 3, gap := 150, lead := 3000, defaultPace := 360, lines := 2, hold := 4000, stale := 5000,
    waves := [0, 1], showEstimated := true, showProjection := true, pollHold := 2000 }

/-- A display item of a bib at point 3. -/
def item (bib : Half) (due : Nat) (priority : Bool) : DisplayItem :=
  { bib, name := none, point := 3, netSeconds := 5627, pace := some 302, projected := some 11255, place := 1641, priority,
    estimated := false, fromGun := false, due, created := 6892700 }

/-- An item on a line since `shownAt`. -/
def shown (x : DisplayItem) (shownAt : Nat) : Option ShownItem := some { item := x, shownAt, expiry := shownAt + 4000 }

/-- The race at `now`, screen 2 UP with the profile of 9.9, a queue, its lines and a sequence. -/
def screen2 (now : Nat) (queue : List DisplayItem) (lines : List (Option ShownItem)) (waiting : Bool) (seq : Half)
    (held : Option HeldRequest) : State :=
  { race with
    clock := { race.clock with value := now }
    screens := race.screens.set 2
      { profile := profile99, queue, lines, waiting, seq, link := .up, session := .answered, held,
        timer := some 15000 } }

/-! ## Well-formedness (R186, R190) -/

/-- A list of 256 conditions has no count byte; one of 255 has. -/
theorem test_condition_list_256_is_ill_formed :
    (Instr.ackConditions .a 1 (List.replicate 256 1)).wellFormed = false ∧
    (Instr.setMask .a 1 (List.replicate 256 1)).wellFormed = false ∧
    (Instr.setMask .a 1 (List.replicate 255 1)).wellFormed = true := by decide +kernel

/-- 255 chips take a body of 1,027 bytes, above 1,024; 254 chips take 1,023. -/
theorem test_register_body_above_1024_is_ill_formed :
    (Instr.register .a 1 5 0 (List.replicate 255 9) none).wellFormed = false ∧
    (Instr.register .a 1 5 0 (List.replicate 254 9) none).wellFormed = true := by decide +kernel

/-- A name of 256 characters has no length byte. -/
theorem test_name_256_is_ill_formed : (Instr.setName .a 1 5 (some (List.replicate 256 65))).wellFormed = false := by
  decide +kernel

/-- The other lists that a count byte bounds. -/
theorem test_other_lists_256_are_ill_formed :
    (Instr.setWatch .a 1 (List.replicate 256 1)).wellFormed = false ∧
    (Instr.setTally .a 1 0 1 (List.replicate 256 1) none false).wellFormed = false ∧
    (Instr.freeze .a 1 (some (List.replicate 256 1))).wellFormed = false := by decide +kernel

/-! ## Messages (chapter 13) -/

/-- R186: the check over the nine characters "123456789". -/
theorem test_crc_of_123456789 : crc16 [0x31, 0x32, 0x33, 0x34, 0x35, 0x36, 0x37, 0x38, 0x39] = 0x29B1 := by
  decide +kernel

/-- A READ written out from R186 and R188: sequence 6, chip 5001, decoder time 912,355,770 (0x366171BA), level 58. -/
theorem test_read_message_is_read : parseMessage (.mat 4) 0x02
    [0x06, 0x00, 0x00, 0x13, 0x89, 0x36, 0x61, 0x71, 0xBA, 0x3A] = some (.read 4 6 5001 912355770 58) := by
  decide +kernel

/-- A GUN of wave 1 at 1,499,200 (0x0016E040), tag 9: kind 17, the wave, a presence byte and four bytes (R190). -/
theorem test_gun_message_is_read : parseMessage (.control .a) 0x21
    [0x09, 0x11, 0x01, 0x01, 0x00, 0x16, 0xE0, 0x40] = some (.gun .a 9 1 (some 1499200)) := by decide +kernel

/-- SET PORT 6 to none with no allowance: kind 20, the word none is presence byte 2 (R190). -/
theorem test_set_port_none_is_read : parseMessage (.control .b) 0x21 [0x01, 0x14, 0x06, 0x02, 0x00] =
    some (.setPort .b 1 6 none none) := by decide +kernel

/-- AMEND 1530 point 2 to 5,590,000 (0x00554BF0), and AMEND with CLEAR: kind 26 (R190). -/
theorem test_amend_messages_are_read :
    parseMessage (.control .a) 0x21 [0x02, 0x1A, 0x05, 0xFA, 0x02, 0x01, 0x00, 0x55, 0x4B, 0xF0] =
      some (.amend .a 2 1530 2 5590000) ∧
    parseMessage (.control .a) 0x21 [0x02, 0x1A, 0x05, 0xFA, 0x02, 0x02] = some (.amendClear .a 2 1530 2) := by
  decide +kernel

/-- RESTART is kind 40 and STATUS kind 1; kind 41, kind 0, an argument short and one beyond are UNKNOWN_KIND (R190). -/
theorem test_kinds_of_a_command :
    parseMessage (.control .a) 0x21 [0x05, 0x28] = some (.restart .a 5) ∧
    parseMessage (.control .a) 0x21 [0x05, 0x01] = some (.status .a 5) ∧
    parseMessage (.control .a) 0x21 [0x05, 0x29] = some (.unknownKind .a 5) ∧
    parseMessage (.control .a) 0x21 [0x05, 0x00] = some (.unknownKind .a 5) ∧
    parseMessage (.control .a) 0x21 [0x05, 0x18, 0x04] = some (.unknownKind .a 5) ∧
    parseMessage (.control .a) 0x21 [0x05, 0x0B, 0x00] = some (.unknownKind .a 5) ∧
    parseMessage (.control .a) 0x21 [0x05] = none := by decide +kernel

/-- FRAME REQUEST: a wait flag other than 0 is set (R188). -/
theorem test_frame_request_is_read : parseMessage (.screen 2) 0x12 [0x00, 0x28, 0x07] = some (.frameRequest 2 40 true) := by
  decide +kernel

/-- R187: bytes before a start byte are skipped, a frame that fails its check is discarded, and the search resumes at
the byte after its start byte. -/
theorem test_receive_skips_and_discards :
    receive (.mat 0) 0 (([0x55, 0xC3, 0x01, 0, 0, 0, 0] ++ frameBytes 0x01 []).map fun b => ⟨0, b, false⟩) =
      [.discardedFrame (.mat 0), .matHello 0] := by decide +kernel

/-- R187: more than 20 ms between two bytes, and a frame that stands still, come to BYTE_GAP_TIMEOUT; 20 ms do not. -/
theorem test_receive_byte_gap :
    receive (.mat 0) 121 [⟨100, 0xC3, false⟩] = [.byteGapTimeout (.mat 0)] ∧
    receive (.mat 0) 120 [⟨100, 0xC3, false⟩] = [] := by decide +kernel

/-- R185, R187: a frame on a control link is discarded while start-up is in progress, and the search resumes at the byte
after its start byte, here the start byte of a STATUS inside the body of another COMMAND; on a mat link it is taken. -/
theorem test_receive_in_start_up :
    let inner := frameBytes 0x21 [0x05, 0x01]
    let outer := frameBytes 0x21 (0x05 :: 0x03 :: inner)
    let bytes := fun (b : Bool) (l : List Byte) => l.map fun x => (⟨0, x, b⟩ : TimedByte)
    receive (.control .a) 0 (bytes false outer) = [.unknownKind .a 5] ∧
    receive (.control .a) 0 (bytes true outer) = [.discardedFrame (.control .a), .discardedFrame (.control .a)] ∧
    receive (.control .a) 0 (bytes true inner ++ bytes false inner) =
      [.discardedFrame (.control .a), .status .a 5] ∧
    receive (.mat 3) 0 (bytes true (frameBytes 0x01 [])) = [.matHello 3] := by decide +kernel

/-- R188: the body of a CREDIT, an UNCHANGED and a FRAME of one empty line and one occupied line. -/
theorem test_sent_bodies :
    (Sent.credit 4 38).message = some ⟨.mat 4, 0x04, [38]⟩ ∧
    (Sent.unchanged 2 40).message = some ⟨.screen 2, 0x14, [0, 40]⟩ ∧
    (Sent.frame 2 41 [none, some (item 1207 0 true).record]).message = some ⟨.screen 2, 0x13,
      [0, 41, 2, 0, 1, 0x04, 0xB7, 3, 0x19, 0, 0, 0x15, 0xFB, 0x01, 0x2E, 0, 0, 0x2B, 0xF7, 0x06, 0x69, 0]⟩ ∧
    (Sent.response .a 17 .notInCharge .nothing).message = some ⟨.control .a, 0x22, [17, 3]⟩ := by decide +kernel

/-- R154, R156, R190: the record fields of an occupied line in READ SCREEN: bib 1207, no name, point 3, 5,627 net
seconds, pace 302, 11,255 projected seconds, place 1,641, and the three flags, PRIORITY alone set. -/
theorem test_line_fields_of_read_screen :
    (item 1207 0 true).record.fields =
      [0x04, 0xB7, 0, 3, 0, 0, 0x15, 0xFB, 1, 0x01, 0x2E, 1, 0, 0, 0x2B, 0xF7, 0x06, 0x69, 1, 0, 0] := by decide +kernel

/-! ## Worked examples: time alignment (3.8, 3.9) -/

/-- 3.9, 3.8 and the clamp of 3.9: the rates over three spans. -/
theorem test_rates :
    measuredRate ⟨6841000, 912306002⟩ ⟨6891000, 912356000⟩ = some 40 ∧
    measuredRate ⟨0, 500000000⟩ ⟨30000, 500029997⟩ = some 100 ∧
    measuredRate ⟨0, 500000000⟩ ⟨36000, 500035997⟩ = some 83 ∧
    measuredRate ⟨0, 0⟩ ⟨30000, 29990⟩ = some 333 ∧ clampRate 333 = 200 ∧
    measuredRate ⟨0, 0⟩ ⟨29999, 29990⟩ = none := by decide +kernel

/-- 3.9: four reads converted, and one that falls below 0; 3.8 row 8. -/
theorem test_conversions :
    convertTime ⟨6891000, 912356000⟩ 40 912355770 = 6890770 ∧ convertTime ⟨6891000, 912356000⟩ 40 912350870 = 6885870 ∧
    convertTime ⟨6891000, 912356000⟩ 40 912343500 = 6878499 ∧ convertTime ⟨6891000, 912356000⟩ 40 912331000 = 6865999 ∧
    convertTime ⟨1000, 77001000⟩ 0 76996000 = 0 ∧ convertTime ⟨30000, 500029997⟩ 100 500032400 = 32403 := by
  decide +kernel

/-- Port 7 of 3.8 with two records, at `now`. -/
def port7 (now : Nat) : State :=
  (runAt now base).withAlign 7
    { history := [⟨0, 500000000⟩, ⟨1000, 500001000⟩], rate := 0, sync := .synced, staleDeadline := some 6000 }

/-- 3.8 rows 4, 5 and 12: a duplicate and a late report leave the alignment; a clock restart keeps its record alone. -/
theorem test_sync_reports :
    (after (.syncReport 7 500001000) (port7 1050)).align[(7 : Port)] = (port7 0).align[(7 : Port)] ∧
    (after (.syncReport 7 500002000) (port7 2900)).align[(7 : Port)] = (port7 0).align[(7 : Port)] ∧
    (after (.syncReport 7 1000) (port7 37015)).align[(7 : Port)] =
      { history := [⟨37000, 1000⟩], rate := 0, sync := .synced, staleDeadline := some 42000 } := by decide +kernel

/-- 3.8 rows 9 and 10: the stale deadline, and a read that is then estimated. -/
theorem test_stale_port :
    let s := after (.staleDeadline 7) (port7 6000)
    s.align[(7 : Port)].sync = .stale ∧ Condition.syncLost ∈ s.control.linkB.pending ∧
    s.convert 7 (aRead 9 500032400 1 35410) = (35160, true) ∧
    after (.staleDeadline 7) (port7 5999) = port7 5999 := by decide +kernel

/-! ## Worked examples: split arithmetic (7.9, 7.10) -/

/-- The record of 7.9, with the crossing at point 3. -/
def anna3 (t : Nat) : Crossings := anna.crossings.set 3 (some (good t 4 1641))

/-- 7.9: elapsed and net time, segment, pace, projection, travel and due time. -/
theorem test_split_of_7_9 :
    gunElapsed (some 1200000) 6890770 = some 5690770 ∧ netTime (anna3 6890770) (some 1200000) 6890770 =
      some (5627320, false) ∧
    segment course58 (anna3 6890770) 3 6890770 = some ⟨2, 1842560, 6097⟩ ∧ pace ⟨2, 1842560, 6097⟩ = some 302 ∧
    projection course58 5000 3 (some 5627320) = some 11254 ∧ travelTime 150 360 (some ⟨2, 1842560, 6097⟩) = 45331 ∧
    dueTime 6890770 45331 3000 = 6933101 := by decide +kernel

/-- 7.9: the estimated item, built when the crossing is handed on. -/
theorem test_item_of_7_9 :
    (buildItem race profile99 { anna with crossings := anna3 6890905 } 3
      { good 6890905 5 1641 with estimated := true }).map (fun x => (x.netSeconds, x.pace, x.projected, x.due, x.created)) =
      some (5627, some 302, some 11255, 6933239, 6892700) := by decide +kernel

/-- 7.10 rows 1 to 4: the pace at its limits. -/
theorem test_pace_limits :
    pace ⟨0, 3599499, 1000⟩ = some 3599 ∧ pace ⟨0, 3599500, 1000⟩ = none ∧ pace ⟨0, 3048, 6097⟩ = some 0 ∧
    pace ⟨0, 301500, 1000⟩ = some 302 := by decide +kernel

/-- 7.10 rows 5 to 8: the projection at its limits, point 1 standing at 5,000 m. -/
theorem test_projection_limits :
    projection course58 5001 1 (some 10238179) = none ∧ projection course58 5000 1 (some 10238179) = some 86399 ∧
    projection course58 5000 1 (some 10238180) = none ∧ projection course58 5000 5 (some 10238179) = none := by
  decide +kernel

/-- 7.10 rows 9 to 12: the due time at its limits. -/
theorem test_due_limits :
    dueTime 6890770 (travelTime 10 360 (some ⟨2, 1842560, 6097⟩)) 5000 = 6890770 ∧ dueTime 100 0 0 = 100 ∧
    dueTime 100 (travelTime 150 360 none) 3000 = 51100 ∧ dueTime 4294960000 45331 3000 = 4294967295 := by decide +kernel

/-- 7.10 rows 13 to 16: which start counts. -/
theorem test_start_times :
    netTime ((Vector.replicate 10 none).set 0 (some { good 1263450 0 1 with suspect := some .order })) (some 1200000)
      6890770 = some (5690770, true) ∧
    netTime ((Vector.replicate 10 none).set 0 (some (good 6900000 0 1))) (some 1200000) 6890770 = some (5690770, true) ∧
    netTime (Vector.replicate 10 none) none 1650000 = none ∧
    netTime ((Vector.replicate 10 none).set 0 (some (good 1650000 0 1))) (some 1200000) 1650000 = some (0, false) := by
  decide +kernel

/-! ## Worked sequences, one step each -/

/-- 1.1: START CLOCK drives the pulse at 0; 999 counted milliseconds drive none, the thousandth drives one. -/
theorem test_pulses :
    (after (.startClock .a 7 none) base).sent = [.pulse 0, .response .a 7 .ok .nothing] ∧
    (after .countedMillisecond (runAt 998 base)).sent = [] ∧
    (after .countedMillisecond (runAt 999 base)).sent = [.pulse 1000] := by decide +kernel

/-- 1.10 rows 3 and 6: STOP CLOCK keeps the latest pulse, and is refused once a gun is set. -/
theorem test_stop_clock :
    (after (.stopClock .a 1) (runAt 900000 base)).clock = { (runAt 900000 base).clock with state := .stopped } ∧
    answer (after (.stopClock .a 1) race) = some (.response .a 1 .state .nothing) := by decide +kernel

/-- 1.10 rows 7, 9, 10 and 11: a gun in the past, one in the future, wave 16, and a re-gun of a wave with crossings. -/
theorem test_guns :
    (after (.gun .a 1 1 (some 1499200)) race).clock.guns[(1 : Wave)] = some 1499200 ∧
    answer (after (.gun .a 1 2 (some 6892701)) race) = some (.response .a 1 .range .nothing) ∧
    answer (after (.gun .a 1 16 none) race) = some (.response .a 1 .range .nothing) ∧
    answer (after (.gun .a 1 0 (some 1199000)) race) = some (.response .a 1 .state .nothing) := by decide +kernel

/-- 2.9 rows 1 and 5: HELLO opens the account, and a read after one lost read. -/
theorem test_hello_and_lost_read :
    (after (.matHello 4) base).intake[(4 : Port)] = (portUp 4 [] 32 0 32 0 base).intake[(4 : Port)] ∧
    (after (.matHello 4) base).sent = [.credit 4 32] ∧
    (let s := portUp 4 [aRead 9 0 0 0, aRead 9 0 0 0, aRead 9 0 0 0, aRead 9 0 0 0] 28 5 33 1 resetting
     let m := (after (.read 4 6 9 0 0) s).intake[(4 : Port)]
     (m.outstanding, m.expected, m.grant, m.unreported, m.list.length) = (27, 7, 34, 2, 5)) := by decide +kernel

/-- 2.9 rows 9 and 10: a repeated copy is dropped; silence takes the port DOWN. -/
theorem test_repeated_read_and_silence :
    (after (.read 4 4 9 0 0) (portUp 4 [] 32 7 39 0 base)).intake[(4 : Port)] =
      (portUp 4 [] 32 7 39 0 base).intake[(4 : Port)] ∧
    (let t := after (.matSilenceDeadline 4) { portUp 4 [] 32 7 39 0 base with elapsed := 3000 }
     t.intake[(4 : Port)] = { (portUp 4 [] 0 7 39 0 base).intake[(4 : Port)] with link := .down, timer := none } ∧
     Condition.linkDown ∈ t.control.linkA.pending) := by decide +kernel

/-- 4.6 row 6: the sixth read of the sequence moves the peak time of chip 5001 and its deadline. -/
theorem test_passage_row_6 :
    let h : HeldRead := { chip := 5001, dtime := 912355770, level := 58, arrival := 6891020, port := 4,
                          takeTime := 6891700, point := 3, time := 6890770, estimated := false, standing := .asTaken }
    let x := (aPassage 5001 6890690 6890840 58 6890900 6891400).apply h
    x = aPassage 5001 6890690 6890770 58 6890900 6891700 ∧ x.deadline Limits.defaults = 6893200 := by decide +kernel

/-- R53 and R54: a touched passage past its deadline, here by max dwell, closes at the completion while the clock runs,
and stays open while it is STOPPED. -/
theorem test_completion_closes_touched_passage :
    let s := (holding .asTaken).withPassages 4 [aPassage 7310 6874000 6874000 30 6874000 6893500]
    let stopped := { s with clock := { s.clock with state := .stopped } }
    (after .readCompletion s).passage.lists[(4 : Port)] = [] ∧
    (after .readCompletion stopped).passage.lists[(4 : Port)] = [aPassage 7310 6874000 6893880 41 6874000 6894000] ∧
    (after .readCompletion stopped).passage.held = none := by decide +kernel

/-- 4.6 rows 7 and 8: the crossings of the two passages under PEAK, here of chips that are parked. -/
theorem test_close_under_peak :
    let s := ({ race with clock := { race.clock with value := 6893200 } }).withPassages 4
      [aPassage 7311 6890690 6890770 58 6890900 6891700]
    (after (.closeDeadline 4 7311) s).park.map (fun e => e.crossings[(3 : Point)]) =
      [some { time := 6890770, source := 4, estimated := false }] ∧
    (after (.closeDeadline 4 7311) s).passage.lists[(4 : Port)] = [] := by decide +kernel

/-- 4.6, the SET PORT: the open passage closes at point 3 and the held read becomes PORT RESET; its completion hands
point 3 the later time, which the entry does not take. -/
theorem test_set_port_closes_passage :
    let s := (holding .asTaken).withPassages 4 [aPassage 7310 6893420 6893420 30 6893500 6893500]
    let t := after (.setPort .a 1 4 (some 4) none) s
    t.passage.held = some (heldOn4 .portReset) ∧ t.passage.lists[(4 : Port)] = [] ∧
    t.park.map (fun e => e.crossings[(3 : Point)]) = [some { time := 6893420, source := 4, estimated := false }] ∧
    (after .readCompletion t).park.map (fun e => e.crossings[(3 : Point)]) =
      [some { time := 6893420, source := 4, estimated := false }] := by decide +kernel

/-- 5.8 rows 1, 3, 4, 6 and 10: which points the course takes, here before the lock is set. -/
theorem test_set_point :
    let s : Nat → State := fun n => { base with registry := { base.registry with
      course := Vector.ofFn fun p : Fin 10 => if p.val < n then course58[p] else none } }
    answer (after (.setPoint .a 1 1 5000 1 true) (s 0)) = some (.response .a 1 .range .nothing) ∧
    answer (after (.setPoint .a 1 0 10 0 false) (s 1)) = some (.response .a 1 .range .nothing) ∧
    (after (.setPoint .a 1 1 5000 1 true) (s 1)).registry.course = (s 2).registry.course ∧
    answer (after (.setPoint .a 1 3 15000 1 true) (s 3)) = some (.response .a 1 .range .nothing) ∧
    answer (after (.setPoint .a 1 2 22000 1 true) (s 6)) = some (.response .a 1 .range .nothing) := by decide +kernel

/-- 5.8 rows 11, 14, 15, 16 and 18, and LOCKED after the first gun. -/
theorem test_ports_and_clear_point :
    let s := { race with clock := base.clock }
    answer (after (.clearPoint .a 1 4) s) = some (.response .a 1 .state .nothing) ∧
    answer (after (.setPort .a 1 2 (some 0) none) s) = some (.response .a 1 .full .nothing) ∧
    (after (.setPort .a 1 1 (some 0) (some 450)) s).registry.ports[(1 : Port)] = ⟨some 0, 450⟩ ∧
    answer (after (.setPort .a 1 10 (some 6) none) s) = some (.response .a 1 .state .nothing) ∧
    answer (after (.clearPoint .a 1 5) s) = some (.response .a 1 .state .nothing) ∧
    answer (after (.clearPoint .a 1 5) race) = some (.response .a 1 .locked .nothing) := by decide +kernel

/-- The race with chip 7310 parked (5.9). -/
def parked : State :=
  { race with park := [{ chip := 7310, parkedAt := 6894000, lastUpdate := 6894000, crossings :=
      (Vector.replicate 10 none).set 3 (some { time := 6893420, source := 4, estimated := false }) }] }

/-- 5.9 rows 2, 3, 4, 6, 8 and 9: REGISTER and its refusals, a parked chip replayed as EARLY, and REMOVE. -/
theorem test_register_and_remove :
    answer (after (.register .a 1 1208 0 [5002, 5002] none) parked) = some (.response .a 1 .duplicate .nothing) ∧
    answer (after (.register .a 1 1209 0 [5001] none) parked) = some (.response .a 1 .duplicate .nothing) ∧
    (let t := after (.register .a 1 2044 1 [7310, 5102] none) parked
     t.park = [] ∧ t.registry.chipMap = [(5001, 1207), (5102, 2044), (6530, 1530), (7310, 2044)] ∧
     (t.runner 2044).map (fun r => (r.status, r.crossings[(3 : Point)].bind fun x => x.suspect)) =
       some (.registered, some .early) ∧
     answer (after (.remove .a 2 2044) t) = some (.response .a 2 .state .nothing)) ∧
    answer (after (.register .a 1 1207 3 [] none) parked) = some (.response .a 1 .duplicate .nothing) ∧
    answer (after (.remove .a 1 1208) parked) = some (.response .a 1 .unknown .nothing) := by decide +kernel

/-- 5.9 row 7: SET NAME without a name. -/
theorem test_set_name : ((after (.setName .a 1 1207 none) race).runner 1207).map (fun r => r.name) = some none := by
  decide +kernel

/-- 5.10 rows 1, 2, 4 and 6. -/
theorem test_race_reset_refusals :
    (after (.raceReset .a 17) race).registry.state = .resetting ∧
    answer (after (.raceReset .a 17) race) = none ∧
    answer (after (.readRunner .b 1 1207) resetting) = some (.response .b 1 .busy .nothing) ∧
    answer (after (.setName .a 18 1207 none) resetting) = some (.response .a 18 .busy .nothing) ∧
    answer (after (.register .b 3 3001 0 [] none) resetting) = some (.response .b 3 .notInCharge .nothing) := by
  decide +kernel

/-- 5.10 row 7: the last record is cleared, and the completion answers tag 17. -/
theorem test_race_reset_completion :
    let t := after (.runnerRecordClearing 1207) resetting
    (t.runner 1207).map (fun r => (r.status, r.crossings)) = some (.registered, Vector.replicate 10 none) ∧
    (after .raceResetCompletion t).registry.state = .ready ∧
    answer (after .raceResetCompletion t) = some (.response .a 17 .ok .nothing) := by decide +kernel

/-- A crossing of bib 1207 at point 3. -/
def at3 (source : Port) (time : Nat) (estimated : Bool) : Incoming := { chip := 5001, point := 3, source, time, estimated }

/-- The race with bib 1207's crossing at point 3. -/
def withAt3 (x : Crossing) : State := race.putRunner (anna.withCrossing 3 (some x))

/-- The point 3 crossing of bib 1207. -/
def crossing3 (s : State) : Option Crossing := (s.runner 1207).bind fun r => r.crossings[(3 : Point)]

/-- 6.9 row 1: a new estimated crossing takes place 1,641. -/
theorem test_crossing_new :
    let t := race.takeCrossing (at3 5 6890905 true) false
    crossing3 t = some { good 6890905 5 1641 with estimated := true } ∧ t.registry.counters[(3 : Point)] = 1641 := by
  decide +kernel

/-- 6.9 row 2: a crossing of higher quality replaces it and keeps the place. -/
theorem test_crossing_replaced :
    crossing3 ((withAt3 { good 6890905 5 1641 with estimated := true }).takeCrossing (at3 4 6890770 false) false) =
      some (good 6890770 4 1641) := by decide +kernel

/-- 6.9 rows 4, 6 and 7: a confirmation with an earlier time, one with a later time, and a repeat outside the window. -/
theorem test_crossing_confirmed_and_repeated :
    crossing3 ((withAt3 (good 6890800 4 1641)).takeCrossing (at3 5 6890770 false) false) =
      some { good 6890770 5 1641 with confirmed := true } ∧
    crossing3 ((withAt3 (good 6890770 4 1641)).takeCrossing (at3 5 6890800 false) false) =
      some { good 6890770 4 1641 with confirmed := true } ∧
    (withAt3 (good 6890770 4 1641)).takeCrossing (at3 5 6912300 false) false = withAt3 (good 6890770 4 1641) := by
  decide +kernel

/-- 6.10 row 3: bib 1530 at point 2 after its point 3 crossing is ORDER, without a place, and is in the watch log. -/
theorem test_crossing_order :
    let s := { race with control := { race.control with watchList := [1530] } }
    let t := s.takeCrossing { chip := 6530, point := 2, source := 3, time := 7318000, estimated := true } false
    (t.runner 1530).bind (fun r => r.crossings[(2 : Point)]) =
      some { time := 7318000, source := .port 3, place := none, estimated := true, confirmed := false, amended := false,
             suspect := some .order } ∧
    t.control.watchLog =
      [{ bib := 1530, point := 2, time := 7318000, netSeconds := some 6017, suspect := some .order }] ∧
    Condition.suspect ∈ t.control.linkB.pending ∧ t.registry.counters = s.registry.counters := by decide +kernel

/-- 6.10 rows 4 and 5: AMEND takes place 1,957, and a mat's crossing is then a repeat. -/
theorem test_amend :
    let t := after (.amend .a 1 1530 2 5590000) race
    (t.runner 1530).bind (fun r => r.crossings[(2 : Point)]) =
      some { time := 5590000, source := .control, place := some 1957, estimated := false, confirmed := false,
             amended := true, suspect := none } ∧
    t.takeCrossing { chip := 6530, point := 2, source := 3, time := 5589640, estimated := false } false = t := by
  decide +kernel

/-- The FAST bound of 6.9: 975,520 ms from point 2 to point 3; one less is FAST. -/
theorem test_fast_bound :
    checkReason race anna 3 (5048210 + 975520) = none ∧ checkReason race anna 3 (5048210 + 975519) = some .fast := by
  decide +kernel

/-- R104 and R105: AMEND CLEAR removes the crossing and keeps the counter; ACCEPT gives a suspect crossing its place. -/
theorem test_amend_clear_and_accept :
    crossing3 (after (.amendClear .a 1 1207 3) (withAt3 (good 6890770 4 1641))) = none ∧
    crossing3 (after (.accept .a 1 1207 3) (withAt3 { good 6890770 4 1641 with place := none, suspect := some .fast })) =
      some (good 6890770 4 1641) := by decide +kernel

/-- The status table of 6.6, for a RUNNING runner and a WITHDRAWN one. -/
theorem test_status_commands :
    ((after (.withdraw .a 1 1207) race).runner 1207).map (fun r => r.status) = some .withdrawn ∧
    ((after (.disqualify .a 1 1207) race).runner 1207).map (fun r => r.status) = some .disqualified ∧
    answer (after (.reinstate .a 1 1207) race) = some (.response .a 1 .state .nothing) ∧
    ((after (.reinstate .a 1 1207) (race.putRunner { anna with status := .withdrawn })).runner 1207).map
      (fun r => r.status) = some .running := by decide +kernel

/-- 8.8 rows 1, 2 and 3: a new entry, an estimated crossing that is not stored, and a second point. -/
theorem test_parking :
    let s := { race with clock := { race.clock with value := 1560400 } }
    let t := s.takeCrossing { chip := 9017, point := 0, source := 0, time := 1558900, estimated := false } false
    let u := t.takeCrossing { chip := 9017, point := 0, source := 1, time := 1558860, estimated := true } false
    t.park = u.park ∧ t.park.length = 1 ∧ Condition.unknownChip ∈ t.control.linkA.pending ∧
    (u.takeCrossing { chip := 9017, point := 1, source := 2, time := 3190950, estimated := false } false).park.map
      (fun e => (e.crossings[(0 : Point)], e.crossings[(1 : Point)])) =
      [(some { time := 1558900, source := 0, estimated := false },
        some { time := 3190950, source := 2, estimated := false })] := by decide +kernel

/-- 8.8 rows 5, 6 and 7, with chip 7310 and bib 1207: BIND and its refusals, and DISCARD. -/
theorem test_bind_and_discard :
    answer (after (.bind .a 1 7310 9999) parked) = some (.response .a 1 .unknown .nothing) ∧
    answer (after (.bind .a 1 5001 1207) parked) = some (.response .a 1 .duplicate .nothing) ∧
    crossing3 (after (.bind .a 1 7310 1207) parked) = some (good 6893420 4 1641) ∧
    (after (.bind .a 1 7310 1207) parked).park = [] ∧ (after (.discard .a 1 7310) parked).park = [] ∧
    answer (after (.discard .a 1 9017) parked) = some (.response .a 1 .unknown .nothing) := by decide +kernel

/-- 9.9 row 7: the due head takes line 1, and the rise answers the held request with FRAME 41. -/
theorem test_due_head_takes_line_1 :
    let s := screen2 6933239 [item 1207 6933239 false, item 1530 6938000 true] [none, none] false 40
      (some { last := 40, deadline := 6934000 })
    let t := after (.dueDeadline 2) s
    t.screens[(2 : ScreenNo)].queue = [item 1530 6938000 true] ∧
    t.screens[(2 : ScreenNo)].lines = [shown (item 1207 6933239 false) 6933239, none] ∧
    t.sent = [.frame 2 41 [some (item 1207 6933239 false).record, none]] := by decide +kernel

/-- 9.9 rows 8 and 9: an item that is stale at insertion, and one that takes line 2 at once. -/
theorem test_offers :
    let x := (screen2 0 [item 1530 6938000 true] [shown (item 1207 6933239 false) 6933239, none] false 41
      none).screens[(2 : ScreenNo)]
    x.offer 6935000 (item 1640 6929000 false) = { screen := x, counts := [.itemStale], rises := false, full := false } ∧
    (x.offer 6936000 (item 1702 6934500 false)).screen.lines =
      [shown (item 1207 6933239 false) 6933239, shown (item 1702 6934500 false) 6936000] ∧
    (x.offer 6936000 (item 1702 6934500 false)).counts = [.itemQueued, .itemShown] := by decide +kernel

/-- 9.9 rows 11, 12 and 13: the head waits, takes the line that expires, and a PRIORITY head pre-empts line 2. -/
theorem test_wait_expiry_and_preemption :
    let l1 := shown (item 1207 6933239 false) 6933239
    let l2 := shown (item 1702 6934500 false) 6936000
    let q := [item 1888 6936800 false, item 1530 6938000 true]
    (after (.dueDeadline 2) (screen2 6936800 q [l1, l2] false 42 none)).screens[(2 : ScreenNo)].waiting = true ∧
    (after (.lineExpiry 2 0) (screen2 6937239 q [l1, l2] true 42 none)).screens[(2 : ScreenNo)].lines =
      [shown (item 1888 6936800 false) 6937239, l2] ∧
    (after (.lineExpiry 2 0) (screen2 6937239 q [l1, l2] true 42 none)).screens[(2 : ScreenNo)].seq = 43 ∧
    (after (.dueDeadline 2) (screen2 6938000 [item 1530 6938000 true] [shown (item 1888 6936800 false) 6937239, l2]
      false 43 none)).screens[(2 : ScreenNo)].lines =
      [shown (item 1888 6936800 false) 6937239, shown (item 1530 6938000 true) 6938000] := by decide +kernel

/-- 9.9, the full queue: the item that is dropped. -/
theorem test_full_queue :
    let q := (List.range 63).map (fun i => item (BitVec.ofNat 16 (i + 1)) (7000000 + i) false) ++
      [item 2207 7410000 false]
    (enqueue (item 3001 7415000 false) q) = (q, [.itemDropped]) ∧
    (enqueue (item 3001 7405000 false) q).1.getLast? = some (item 3001 7405000 false) ∧
    (enqueue (item 3001 7420000 true) q).2 = [.itemDropped, .itemQueued] ∧
    (enqueue (item 3001 7410000 false) q) = (q, [.itemDropped]) := by decide +kernel

/-- 9.9 row 17 and rows 2 and 3: DISQUALIFY empties the line, a request is held, and its deadline answers UNCHANGED. -/
theorem test_disqualify_and_hold :
    let s := screen2 6948200 [] [shown (item 1207 6947000 false) 6947000, none] false 47 none
    (after (.disqualify .a 1 1207) s).screens[(2 : ScreenNo)].lines = [none, none] ∧
    (after (.disqualify .a 1 1207) s).screens[(2 : ScreenNo)].seq = 48 ∧
    (after (.frameRequest 2 47 true) s).screens[(2 : ScreenNo)].held = some { last := 47, deadline := 2000 } ∧
    (after (.holdDeadline 2) { after (.frameRequest 2 47 true) s with elapsed := 2000 }).sent = [.unchanged 2 47] := by
  decide +kernel

/-- 9.8, R138: SET PROFILE with the five defaults left out, and one that is out of its range. -/
theorem test_set_profile :
    let a : ProfileArgs := { enabled := none, trigger := 3, gap := 150, lead := 3000, defaultPace := none, lines := 2,
                             hold := none, stale := none, waves := [1, 0], showEstimated := true, showProjection := true,
                             pollHold := none }
    (after (.setProfile .a 1 2 a) base).screens[(2 : ScreenNo)].profile = { profile99 with enabled := false } ∧
    (after (.setProfile .a 1 2 a) base).screens[(2 : ScreenNo)].seq = 1 ∧
    answer (after (.setProfile .a 1 2 { a with lines := 5 }) base) = some (.response .a 1 .range .nothing) := by
  decide +kernel

/-- `base` with the token and the claim. -/
def tokens (token : Token) (claim : Option Side) : State := base.withControl { base.control with token, claim }

/-- 10.7 rows 1, 2, 3 and 11. -/
theorem test_claim_and_seize :
    (after (.claim .b 1) (tokens .free none)).control.token = .held .b ∧
    (let t := after (.claim .a 1) (tokens (.held .b) none)
     t.control.claim = some .a ∧ t.control.linkB.pending = [.claimPending] ∧ t.control.linkA.pending = [] ∧
     answer t = some (.response .a 1 .pending .nothing)) ∧
    answer (after (.gun .a 1 2 none) (tokens (.held .b) (some .a))) = some (.response .a 1 .notInCharge .nothing) ∧
    answer (after (.seize .b 1) base) = some (.response .b 1 .notPermitted .nothing) ∧
    (after (.seize .a 1) (tokens (.held .b) none)).control.linkB.pending = [.tokenLost] := by decide +kernel

/-- 10.7 rows 6, 7, 8 and 12. -/
theorem test_release_pass_and_silence :
    (let t := after (.release .b 1) (tokens (.held .b) (some .a))
     (t.control.token, t.control.claim, t.control.linkA.pending) = (.held .a, none, [.tokenGranted])) ∧
    (let t := after (.pass .a 1) base
     (t.control.token, t.control.linkB.pending) = (.held .b, [.tokenGranted])) ∧
    (let t := after (.controlSilenceDeadline .b) { tokens (.held .b) none with elapsed := 10000 }
     (t.control.token, t.control.linkA.pending, t.control.linkB.pending, t.control.linkB.link) =
       (.free, [.linkDown], [.linkDown, .tokenLost], .down)) ∧
    answer (after (.release .b 1) base) = some (.response .b 1 .state .nothing) := by decide +kernel

/-- 10.7 rows 4 and 5: a masked condition does not drive ATTN; ACK and MASK by number, 5 CREDIT_OVERRUN, 11
CLAIM_PENDING. -/
theorem test_conditions_and_attn :
    let s := ((after (.setMask .b 1 [5]) base).raise .creditOverrun).raiseTo .b .claimPending
    s.attn .a = true ∧ s.attn .b = true ∧
    (after (.ackConditions .b 2 [11]) s).attn .b = false ∧
    answer (after (.readConditions .b 2) s) =
      some (.response .b 2 .ok (.conditions [.creditOverrun, .claimPending] [.creditOverrun] true)) ∧
    answer (after (.ackConditions .b 2 [19]) s) = some (.response .b 2 .range .nothing) ∧
    answer (after (.unknownKind .b 2) s) = some (.response .b 2 .range .nothing) := by decide +kernel

/-- 10.7, the watch log: the 64th entry joins, the 65th sets the flag, and a read takes 16 and clears it. -/
theorem test_watch_log :
    let e : WatchEntry := { bib := 1207, point := 3, time := 6890770, netSeconds := some 5627, suspect := none }
    let s := base.withControl { base.control with watchLog := List.replicate 63 e }
    let t := s.appendWatch e
    t.control.watchLog.length = 64 ∧ t.control.overflow = false ∧
    (t.appendWatch e).control.overflow = true ∧ (t.appendWatch e).control.linkA.pending = [.watchOverflow] ∧
    (after (.readWatchLog .b 1 16) (t.appendWatch e)).control.watchLog.length = 48 ∧
    (after (.readWatchLog .b 1 16) (t.appendWatch e)).control.overflow = false := by decide +kernel

/-- R171: SET WATCH with a bib of 0 and with a bib given twice. -/
theorem test_set_watch :
    (after (.setWatch .a 1 [1530, 7]) base).control.watchList = [1530, 7] ∧
    answer (after (.setWatch .a 1 [0]) base) = some (.response .a 1 .range .nothing) ∧
    answer (after (.setWatch .a 1 [7, 7]) base) = some (.response .a 1 .duplicate .nothing) := by decide +kernel

/-- The tallies of 11.5 before row 7: class 2 is READ_DROPPED, class 1 READ_ACCEPTED. -/
def tallying : State :=
  let s := after (.freeze .a 3 (some [5])) (after (.setTally .a 2 1 1 [] none false)
    (after (.setTally .a 1 0 2 [3] (some 5) true) base))
  portUp 3 [] 0 7 7 0 { s with tally := { s.tally with
    tallies := s.tally.tallies.set 0 { s.tally.tallies[(0 : Fin 8)] with value := 4 } } }

/-- 11.5 rows 6, 7, 8 and 9. -/
theorem test_tallies :
    let t := after (.read 3 7 9 0 0) tallying
    (tallying.count .readDropped 7).tally = tallying.tally ∧
    (t.tally.tallies[(0 : Fin 8)].value, t.tally.frozen) = (5, true) ∧
    t.control.linkA.pending = [.creditOverrun, .tallyLimit] ∧
    (t.count .readDropped 3).tally = t.tally ∧ (after (.thaw .a 9) t).tally.frozen = false ∧
    (after (.clearTallies .a 9) t).tally.tallies[(0 : Fin 8)].value = 0 ∧
    (after (.freeze .a 9 none) tallying).tally.frozen = true := by decide +kernel

/-- 12.5 rows 3, 5, 6, 7 and 8. -/
theorem test_store :
    let s := after (.store .a 1) base
    (s.store.state, s.store.valid, s.store.snapshot) = (.erasing, false, some base.settings) ∧
    (after .eraseCompletion s).store.state = .writing ∧
    answer (after (.store .a 2) s) = some (.response .a 2 .busy .nothing) ∧
    (let t := after .writeCompletion (after .eraseCompletion s)
     (t.store.state, t.store.valid, t.store.image) = (.idle, true, some base.settings)) ∧
    (let t := after (.stationReset .restart) (after (.restart .a 3) s)
     (t.store.state, t.store.valid, t.control.resetCause, t.startUp) = (.idle, false, .restartCommand, true)) := by
  decide +kernel

/-- 12.1 and 12.4: a power-on with a cleared mark leaves RESTARTED and STORE_INVALID pending when start-up ends. -/
theorem test_start_up :
    let t := after .startUpEnd (after .powerOn race)
    t.control.linkA.pending = [.storeInvalid, .restarted] ∧ t.control.linkB.pending = [.storeInvalid, .restarted] ∧
    t.registry.runners = [] ∧ t.clock.state = .stopped ∧ t.clock.supervised = true := by decide +kernel

/-- 1.10, REF: the loss raises REF_LOST, the return raises nothing; before supervision no loss is seen. -/
theorem test_ref :
    (after .refLoss base).clock.ref = .lost ∧ (after .refLoss base).control.linkA.pending = [.refLost] ∧
    (after .refReturn (after .refLoss base)).clock.ref = .present ∧ after .refLoss State.reset = State.reset := by
  decide +kernel

/-- R187: a discarded frame counts on a mat link alone. -/
theorem test_discarded_frames :
    let s := after (.setTally .a 1 0 4 [] none false) base
    (after (.discardedFrame (.mat 3)) s).tally.tallies[(0 : Fin 8)].value = 1 ∧
    (after (.byteGapTimeout (.mat 3)) s).tally.tallies[(0 : Fin 8)].value = 1 ∧
    after (.discardedFrame (.screen 3)) s = s ∧ after (.byteGapTimeout (.control .a)) s = s := by decide +kernel

/-- R151: HELLO brings a screen link UP, and 15,000 ms of silence take it DOWN. -/
theorem test_screen_link :
    (after (.screenHello 2) base).screens[(2 : ScreenNo)].link = .up ∧
    (after (.screenSilenceDeadline 2) { after (.screenHello 2) base with elapsed := 14999 }).screens[(2 : ScreenNo)].link
      = .up ∧
    (after (.screenSilenceDeadline 2) { after (.screenHello 2) base with elapsed := 15000 }).screens[(2 : ScreenNo)].link
      = .down := by decide +kernel

/-- The queries answer OK, and refuse a number out of range (R32, R134, R156, R174, R180). -/
theorem test_queries :
    answer (after (.status .b 1) base) =
      some (.response .b 1 .ok (.status (statusReport (base.hearControl .b)))) ∧
    answer (after (.readPort .b 1 12) base) = some (.response .b 1 .range .nothing) ∧
    answer (after (.readScreen .b 1 8) base) = some (.response .b 1 .range .nothing) ∧
    answer (after (.readParkList .b 1 (some 64)) base) = some (.response .b 1 .range .nothing) ∧
    answer (after (.readParkList .b 1 none) base) = some (.response .b 1 .ok (.parkList 0 [])) ∧
    answer (after (.readTallies .b 1) base) = some (.response .b 1 .ok (.tallies base.tally)) := by decide +kernel

/-- R60, R61: SET LIMITS with a shorter dwell gap closes a passage whose new deadline is at or before now. -/
theorem test_set_limits :
    let a : LimitsArgs := { minPace := none, confirmWindow := none, dwellGap := some 1000, maxDwell := none,
                            projectionFloor := none, staleHorizon := none }
    let s := race.withPassages 4 [aPassage 7311 6891600 6891600 30 6891700 6891700]
    (after (.setLimits .a 1 a) s).passage.lists[(4 : Port)] = [] ∧ (after (.setLimits .a 1 a) s).park.length = 1 ∧
    (after (.setLimits .a 1 a) s).registry.limits.dwellGap = 1000 ∧
    answer (after (.setLimits .a 1 { a with dwellGap := some 199 }) s) = some (.response .a 1 .range .nothing) := by
  decide +kernel

/-! ## Witnesses: the hypotheses of the obligations are met -/

/-- The one member of a given option. -/
theorem forall_mem_some {α : Type} {p : α → Prop} {x : α} (h : p x) : ∀ v ∈ some x, p v := by
  intro v hv
  cases hv
  exact h

theorem witness_StepRunsFrontCommand :
    { base with pending := [.refLoss, .refReturn] }.pending = Instr.refLoss :: [.refReturn] ∧ base.pending = [] := by
  decide +kernel

theorem witness_PowerOnLoadsSettings :
    (let s := { base with store := { base.store with valid := true, image := some base.settings } }
     s.store.valid = true ∧ s.store.image = some base.settings) ∧ base.store.valid = false := by decide +kernel

theorem witness_StationResetKeepsRecords : (after (.restart .a 1) race).restartDue = true := by decide +kernel

theorem witness_StartUpEndsReady :
    State.reset.startUp = true ∧ State.reset.control.resetCause = .powerOn ∧ State.reset.store.valid = false ∧
    (after (.stationReset .resetLine) resetting).startUp = true ∧
    (after (.stationReset .resetLine) resetting).registry.state = .resetting := by decide +kernel

theorem witness_RaceResetBegins :
    (portUp 4 [aRead 9 0 0 0] 31 1 32 0 race).mayEdit .a ∧
    (portUp 4 [aRead 9 0 0 0] 31 1 32 0 race).intake[(4 : Port)].link = .up ∧
    (portUp 4 [aRead 9 0 0 0] 31 1 32 0 race).intake[(5 : Port)].link = .down := by decide +kernel

theorem witness_RaceResetClearsAndCompletes :
    (resetting.registry.state = .resetting ∧ 1207 ∈ resetting.registry.clearing) ∧
    (let t := after (.runnerRecordClearing 1207) resetting
     t.registry.state = .resetting ∧ t.registry.clearing = [] ∧ t.registry.requester = some .a ∧
     (t.controlLink .a).inProgress = some { kind := 39, tag := 17 }) := by decide +kernel

/-- A Race Reset that link B began, after link A seized the token (12.5 row 3). -/
def resettingB : State :=
  { resetting with
    registry := { resetting.registry with requester := some .b }
    control := { base.control with linkB := { base.control.linkB with inProgress := some { kind := 39, tag := 1 } } } }

theorem witness_ResettingRefusesListedCommands :
    (sender (.setName .a 3 1207 none) = some (.a, 3) ∧ barredByReset (.setName .a 3 1207 none) = true ∧
      resettingB.ready .a ∧ resettingB.control.token = .held .a ∧ resettingB.registry.state = .resetting) ∧
    (sender (.readRunner .b 3 1207) = some (.b, 3) ∧ barredByReset (.readRunner .b 3 1207) = true ∧
      resetting.ready .b ∧ isOpen (.readRunner .b 3 1207) = true ∧ resetting.registry.state = .resetting) := by
  decide +kernel

theorem witness_CommandsAreJudgedInOrder :
    ((sender (.status .a 1)).isSome = true ∧ State.reset.startUp = true) ∧
    (sender (.seize .a 2) = some (.a, 2) ∧ resetting.startUp = false ∧
      (resetting.controlLink .a).inProgress.isSome = true) ∧
    (sender (.gun .b 2 0 none) = some (.b, 2) ∧ isOpen (.gun .b 2 0 none) = false ∧ base.ready .b ∧
      base.control.token ≠ .held .b) := by decide +kernel

theorem witness_CountedMillisecondCounts :
    base.clock.state = .stopped ∧ (runAt 4294967295 base).clock.value = 4294967295 ∧
    ((runAt 4294967293 base).clock.state = .running ∧ (runAt 4294967293 base).clock.value + 1 < 4294967295 ∧
      ((runAt 4294967293 base).clock.value + 1) % 1000 ≠ 0) ∧
    ((runAt 999 base).clock.value + 1 < 4294967295 ∧ ((runAt 999 base).clock.value + 1) % 1000 = 0) ∧
    ((runAt 4294967294 base).clock.value + 1 = 4294967295 ∧ (runAt 4294967294 base).clock.limitMark = false) := by
  decide +kernel

theorem witness_RefLossAndReturn :
    (base.clock.supervised = true ∧ base.clock.ref = .present) ∧
    ((after .refLoss base).clock.supervised = true ∧ (after .refLoss base).clock.ref = .lost) := by decide +kernel

theorem witness_StartClockStarts :
    (base.mayEdit .a ∧ base.clock.state = .stopped) ∧ (0 = ((none : Option Word32).map fun x => x.toNat).getD 0) ∧
    (4294967295 = ((some 4294967295 : Option Word32).map fun x => x.toNat).getD 0) ∧
    ((runAt 5 base).mayEdit .a ∧ (runAt 5 base).clock.state = .running) := by decide +kernel

theorem witness_StopClockStops :
    ((runAt 5 base).mayEdit .a ∧ (runAt 5 base).clock.state = .running ∧
      ∀ w : Wave, (runAt 5 base).clock.guns[w] = none) ∧
    (base.mayEdit .a ∧ base.clock.state = .stopped) ∧
    (race.mayEdit .a ∧ race.clock.guns[(0 : Wave)].isSome = true) := by decide +kernel

theorem witness_GunSetsWaveAndLock :
    (race.mayEdit .a ∧ (15 : Byte).toNat = (15 : Wave).val ∧ race.clock.state = .running ∧
      (6892700 : Word32).toNat ≤ race.clock.value ∧ race.clock.guns[(15 : Wave)] = none) ∧
    (15 < (16 : Byte).toNat) ∧ (base.mayEdit .a ∧ (15 : Byte).toNat ≤ 15 ∧ base.clock.state = .stopped) ∧
    (race.clock.value < (6892701 : Word32).toNat) ∧
    ((0 : Byte).toNat = (0 : Wave).val ∧ race.clock.guns[(0 : Wave)].isSome = true ∧ anna ∈ race.registry.runners ∧
      anna.wave = 0 ∧ anna.crossings[(0 : Point)].isSome = true) := by decide +kernel

theorem witness_HelloOpensSession :
    base.intake[(4 : Port)].link = .down ∧ (portUp 4 [] 32 0 32 0 base).intake[(4 : Port)].link = .up := by decide +kernel

theorem witness_ReadIsAccepted :
    ((portUp 4 [] 32 5 37 0 base).intake[(4 : Port)].link = .up ∧
      0 = (5 - (portUp 4 [] 32 5 37 0 base).intake[(4 : Port)].expected).toNat ∧
      0 < (portUp 4 [] 32 5 37 0 base).intake[(4 : Port)].outstanding ∧ (5001 : Word32) ≠ 0) ∧
    (31 = (36 - (portUp 4 [] 32 5 37 0 base).intake[(4 : Port)].expected).toNat ∧
      31 < (portUp 4 [] 32 5 37 0 base).intake[(4 : Port)].outstanding) := by decide +kernel

theorem witness_ReadIsDropped :
    base.intake[(4 : Port)].link = .down ∧ (portUp 4 [] 0 5 5 0 base).intake[(4 : Port)].outstanding = 0 ∧
    ((portUp 4 [] 32 5 37 0 base).intake[(4 : Port)].outstanding ≠ 0 ∧
      (portUp 4 [] 32 5 37 0 base).intake[(4 : Port)].outstanding ≤
        (37 - (portUp 4 [] 32 5 37 0 base).intake[(4 : Port)].expected).toNat) := by decide +kernel

theorem witness_TakesServeInRotation :
    (holding .asTaken).passage.held.isSome = true ∧ State.reset.startUp = true ∧ resetting.registry.state = .resetting ∧
    (∀ p : Port, base.intake[p].list = []) ∧
    (let s := portUp 4 [aRead 9 0 0 0] 31 1 32 0 race
     s.passage.held = none ∧ s.startUp = false ∧ s.registry.state = .ready ∧
     s.intake[(4 : Port)].list = aRead 9 0 0 0 :: [] ∧
     (∀ i : Fin 12, i < 4 - (s.passage.lastServed + 1) → s.intake[s.passage.lastServed + 1 + i].list = []) ∧
     s.registry.ports[(4 : Port)].point = some 3 ∧ s.clock.state = .running) ∧
    (let s := portUp 0 [aRead 9 0 0 0] 31 1 32 0 base
     s.intake[(0 : Port)].list = aRead 9 0 0 0 :: [] ∧ s.registry.ports[(0 : Port)].point = none ∧
     s.clock.state = .stopped) := by decide +kernel

theorem witness_TakesServeInRotation_convert :
    base.align[(7 : Port)].sync ≠ .synced ∧ (port7 1799).align[(7 : Port)].sync = .synced ∧
    (port7 1799).align[(7 : Port)].history.getLast? = some ⟨1000, 500001000⟩ := by decide +kernel

theorem witness_CreditReturnsAndIsReported :
    base.intake[(4 : Port)].link = .down ∧
    ((portUp 4 [aRead 9 0 0 0] 23 1 24 8 base).intake[(4 : Port)].link = .up ∧
      8 ≤ (portUp 4 [aRead 9 0 0 0] 23 1 24 8 base).intake[(4 : Port)].unreported) ∧
    (1 ≤ (portUp 4 [] 32 1 33 1 base).intake[(4 : Port)].unreported ∧
      (portUp 4 [] 32 1 33 1 base).intake[(4 : Port)].list = []) ∧
    ((portUp 4 [aRead 9 0 0 0] 24 1 25 7 base).intake[(4 : Port)].unreported < 8 ∧
      (portUp 4 [aRead 9 0 0 0] 24 1 25 7 base).intake[(4 : Port)].list ≠ []) := by decide +kernel

theorem witness_SyncReportIsMatched :
    base.clock.state = .stopped ∧ { runAt 5 base with clock := { (runAt 5 base).clock with latestPulse := none
      } }.clock.latestPulse = none ∧
    ((runAt 1800 base).clock.latestPulse = some 1000 ∧ 800 ≤ (runAt 1800 base).clock.value - 1000) ∧
    ((port7 1799).clock.state = .running ∧ (port7 1799).clock.latestPulse = some 1000 ∧
      (port7 1799).clock.value - 1000 < 800 ∧ (port7 1799).align[(7 : Port)].history.getLast? = some ⟨1000, 500001000⟩) ∧
    ((port7 2030).clock.latestPulse = some 2000 ∧ ((500001000 : Word32) - 500001000).toInt ≤ 0) ∧
    (¬ ((500001001 : Word32) - 500001000).toInt ≤ 0) ∧ base.align[(7 : Port)].history.getLast? = none := by
  decide +kernel

theorem witness_SilenceAndStaleDeadlines :
    (let s := { portUp 4 [] 32 0 32 0 base with elapsed := 3000 }
     s.intake[(4 : Port)].link = .up ∧ s.intake[(4 : Port)].timer = some 3000 ∧ 3000 ≤ s.elapsed) ∧
    (let s := { screen2 0 [] [none, none] false 0 none with elapsed := 15000 }
     s.screens[(2 : ScreenNo)].link = .up ∧ s.screens[(2 : ScreenNo)].timer = some 15000 ∧ 15000 ≤ s.elapsed) ∧
    ((port7 6000).clock.state = .running ∧ (port7 6000).align[(7 : Port)].sync = .synced ∧
      (port7 6000).align[(7 : Port)].staleDeadline = some 6000 ∧ 6000 ≤ (port7 6000).clock.value) := by decide +kernel

theorem witness_ReadCompletionHandlesRead :
    ((holding .void).passage.held = some (heldOn4 .void) ∧ (heldOn4 .void).standing = .void) ∧
    (let s := after (.setPort .a 1 4 none none) (holding .asTaken)
     s.passage.held = some (heldOn4 .portReset) ∧ s.registry.ports[(4 : Port)].point = none) ∧
    (let s := holding .portReset
     s.registry.ports[(4 : Port)].point.isSome = true ∧ s.registry.course[(3 : Point)].isSome = true) ∧
    (let s := (holding .asTaken).withPassages 4 [aPassage 7310 6893420 6893420 30 6893500 6893500]
     s.passage.held = some (heldOn4 .asTaken) ∧
     (s.passage.lists[(4 : Port)].find? fun y => y.chip == 7310) =
       some (aPassage 7310 6893420 6893420 30 6893500 6893500) ∧ (chipsOf s.passage.lists[(4 : Port)]).Nodup) ∧
    (((holding .asTaken).passage.lists[(4 : Port)].find? fun y => y.chip == 7310) = none ∧
      (holding .asTaken).passage.lists[(4 : Port)].length < 128) ∧
    (let s := (holding .asTaken).withPassages 4
       ((List.range 128).map fun i => aPassage (BitVec.ofNat 32 (i + 1)) 6893420 6893420 30 6893500 6893500)
     128 ≤ s.passage.lists[(4 : Port)].length ∧ s.passage.lists[(4 : Port)] ≠ [] ∧
     (s.passage.lists[(4 : Port)].find? fun y => y.chip == 7310) = none) := by decide +kernel

theorem witness_CloseDeadlineHandsOnCrossing :
    (let s := { race with clock := { race.clock with value := 6893200 } }.withPassages 4
       [aPassage 5001 6890690 6890770 58 6890900 6891700]
     s.clock.state = .running ∧ (s.passage.lists[(4 : Port)].find? fun y => y.chip == 5001) =
       some (aPassage 5001 6890690 6890770 58 6890900 6891700) ∧
     6891700 + s.registry.limits.dwellGap ≤ s.clock.value ∧ s.clock.value ≤ 4294967295 ∧
     s.registry.ports[(4 : Port)].point = some 3 ∧ s.registry.course[(3 : Point)] = some ⟨21097, .peak, true⟩) ∧
    (race.registry.ports[(10 : Port)].point = some 5 ∧
      race.registry.course[(5 : Point)] = some ⟨42195, .first, true⟩) := by decide +kernel

theorem witness_NewCrossingIsRecorded :
    race.bibOf 5001 = some 1207 ∧ race.runner 1207 = some anna ∧ race.registry.course[(3 : Point)].isSome = true ∧
    anna.crossings[(3 : Point)] = none ∧ checkReason race anna 3 6023729 = some .fast ∧
    checkReason race anna 3 6023730 = none := by decide +kernel

/-- The race with bib 1207 on the watch list and `n` entries in the watch log. -/
def watching (n : Nat) : State :=
  { race with control := { race.control with
      watchList := [1207]
      watchLog := List.replicate n { bib := 1207, point := 0, time := 1263450, netSeconds := some 0, suspect := none } } }

theorem witness_NewCrossingIsRecorded_watch :
    anna.bib ∉ race.control.watchList ∧ anna.bib ∈ (watching 64).control.watchList ∧
    ¬ 64 ≤ (watching 63).control.watchLog.length ∧ 64 ≤ (watching 64).control.watchLog.length ∧
    (watching 64).control.overflow = false ∧
    { watching 64 with control := { (watching 64).control with overflow := true } }.control.overflow = true := by
  decide +kernel

/-- R101, R140: with point 3 under display enable and a profile that shows it, bib 1207's crossing is handed on. -/
theorem witness_NewCrossingIsRecorded_screens :
    ((anna.withCrossing 3 (some (good 6890770 4 1641))).derived course58).status = .running ∧
    (∃ c, race.registry.course[(3 : Point)] = some c ∧ c.display = true) ∧
    base.screens[(2 : ScreenNo)].profile.enabled = false ∧
    (let prof := (screen2 6933239 [] [none, none] false 40 none).screens[(2 : ScreenNo)].profile
     prof.enabled = true ∧ prof.trigger = 3 ∧ anna.wave ∈ prof.waves ∧ (good 6890770 4 1641).estimated = false) ∧
    netTime anna.crossings race.clock.guns[anna.wave] 6890770 = some (5627320, false) ∧
    (good 6890770 4 1641).place = some 1641 := by decide +kernel

/-- Due queues of 63 and 64 items, all at one due time: a later item is the candidate of R143, an earlier one is not; and
a PRIORITY item drops the last item that is not. -/
theorem witness_NewCrossingIsRecorded_queue :
    let queue := fun n => List.replicate n (item 1 100 false)
    (queue 64).Pairwise (fun y z => y.due ≤ z.due) ∧ (queue 63).length < 64 ∧ 64 ≤ (queue 64).length ∧
    ((item 2 100 false).priority = false ∧ ∀ y ∈ queue 64, y.due ≤ (item 2 100 false).due) ∧
    (queue 64 = queue 63 ++ item 1 100 false :: [] ∧ (item 2 99 false).due < (item 1 100 false).due) ∧
    ((queue 63 ++ [item 3 100 true]).Pairwise (fun y z => y.due ≤ z.due) ∧
      queue 63 ++ [item 3 100 true] = queue 62 ++ item 1 100 false :: [item 3 100 true] ∧
      (item 3 100 true).priority = true) ∧
    (∀ z ∈ List.replicate 64 (item 3 100 true), z.priority = true) := by decide +kernel

theorem witness_SecondCrossingsAreJudged :
    (race.bibOf 5001 = some 1207 ∧ race.runner 1207 = some anna ∧ race.registry.course[(6 : Point)] = none) ∧
    (let s := withAt3 (good 6890770 4 1641)
     s.bibOf 5001 = some 1207 ∧ s.runner 1207 = some (anna.withCrossing 3 (some (good 6890770 4 1641))) ∧
     s.registry.course[(3 : Point)].isSome = true ∧
     (anna.withCrossing 3 (some (good 6890770 4 1641))).crossings[(3 : Point)] = some (good 6890770 4 1641) ∧
     s.registry.limits.confirmWindow = 10000) ∧
    (let old := good 6890770 4 1641
     (old.amended = false ∧ old.estimated = false) ∧ old.source ≠ .port 5 ∧ old.source = .port 4 ∧
     old.time + 10000 < 6900771 ∧ ¬ old.time + 10000 < 6900770 ∧ 6880769 + 10000 < old.time ∧
     (6880770 < old.time ∧ old.time ≤ 6880770 + 10000)) ∧
    { good 6890770 4 1641 with estimated := true }.estimated = true ∧
    { good 6890770 4 1641 with amended := true, source := .control }.amended = true := by decide +kernel

/-- A replacement, and a confirmation at an earlier time, of which the checks find no reason and one. -/
theorem witness_SecondCrossingsAreJudged_checked :
    (let old := { good 6890905 5 1641 with estimated := true }
     let r := anna.withCrossing 3 (some old)
     old.amended = false ∧ old.estimated ≠ false ∧ checkReason (withAt3 old) r 3 6890770 = none ∧
     checkReason (withAt3 old) r 3 6023729 ≠ none) ∧
    (let old := good 6023735 4 1641
     let r := anna.withCrossing 3 (some old)
     old.amended = false ∧ old.estimated = false ∧ old.source ≠ .port 5 ∧ 6023729 < old.time ∧ old.time ≤ 6023729 + 10000 ∧
     checkReason (withAt3 old) r 3 6023730 = none ∧ checkReason (withAt3 old) r 3 6023729 ≠ none) := by decide +kernel

/-- A parked entry. -/
def entry (chip : Word32) (lastUpdate : Nat) : ParkEntry :=
  ParkEntry.make chip 3 lastUpdate { time := 1, source := 4, estimated := false }

/-- The race with `n` parked chips, 10,001 and on, the first of them updated least recently. -/
def parkOf (n : Nat) : State :=
  { race with park := (List.range n).map fun i => entry (BitVec.ofNat 32 (10001 + i)) (100 + i) }

theorem witness_UnknownChipIsParked :
    (parkOf 64).bibOf 9017 = none ∧ (∃ e ∈ (parkOf 1).park, e.chip = 10001) ∧
    ((∀ e ∈ (parkOf 63).park, e.chip ≠ 9017) ∧ (parkOf 63).park.length < 64) ∧
    ((∀ e ∈ (parkOf 64).park, e.chip ≠ 9017) ∧ 64 ≤ (parkOf 64).park.length ∧
      (parkOf 64).park = [] ++ entry 10001 100 :: (parkOf 64).park.tail ∧
      ∀ f ∈ (parkOf 64).park.tail, (entry 10001 100).lastUpdate ≤ f.lastUpdate) := by decide +kernel

theorem witness_RatePaceAndDueTimeAreExact :
    ((29999 : Int) < 30000 ∧ ((5 : Word32) - 5).toInt ≤ 0) ∧
    ((30000 : Int) ≤ 30000 ∧ 0 < ((1 : Word32) - 0).toInt) ∧ 0 < (⟨0, 1, 1⟩ : Segment).distance ∧
    pace ⟨0, 3599499, 1000⟩ = some 3599 ∧ pace ⟨0, 3599500, 1000⟩ = none ∧ 4294967295 ≤ 4294967295 := by decide +kernel

theorem witness_LinesFillAndExpire :
    (let s := screen2 6933239 [item 1207 6933239 false, item 1530 6933240 true] [none, none] false 40 none
     s.clock.state = .running ∧ s.screens[(2 : ScreenNo)].waiting = false ∧
     s.screens[(2 : ScreenNo)].queue = item 1207 6933239 false :: [item 1530 6933240 true] ∧
     (item 1207 6933239 false).due ≤ s.clock.value ∧ s.clock.value ≤ (item 1207 6933239 false).due + 5000 ∧
     s.screens[(2 : ScreenNo)].lines[0]? = some none ∧
     (∀ j, j < 0 → s.screens[(2 : ScreenNo)].lines[j]? ≠ some none) ∧
     (∀ y ∈ [item 1530 6933240 true].head?, s.clock.value < y.due) ∧ s.screens[(2 : ScreenNo)].held = none) ∧
    (let s := screen2 6937239 [item 1530 6937240 true] [shown (item 1207 6933239 false) 6933239, none] false 41
       (some { last := 41, deadline := 9 })
     s.clock.state = .running ∧ s.screens[(2 : ScreenNo)].lines[((0 : Fin 4)).val]? =
       some (some { item := item 1207 6933239 false, shownAt := 6933239, expiry := 6937239 }) ∧ 6937239 ≤ s.clock.value ∧
     (∀ z ∈ s.screens[(2 : ScreenNo)].queue.head?, s.clock.value < z.due) ∧
     s.screens[(2 : ScreenNo)].held.isSome = true) := by decide +kernel

/-- A line that shows an item from `now` on, for a hold of 4,000 ms. -/
def shown99 (bib : Half) (now : Nat) : ShownItem := { item := item bib now false, shownAt := now, expiry := now + 4000 }

/-- Line 1 expires while the head waits behind two full lines, with a head behind it that is not yet due, or due. -/
theorem witness_LinesFillAndExpire_waiting :
    let lines := [some (shown99 1207 6933239), some (shown99 1888 6936000)]
    let s := fun next => screen2 6937239 [item 1530 6934000 false, next] lines true 41 none
    (s (item 1311 6937240 false)).clock.state = .running ∧
    (s (item 1311 6937240 false)).screens[(2 : ScreenNo)].lines[((0 : Fin 4)).val]? = some (some (shown99 1207 6933239)) ∧
    (shown99 1207 6933239).expiry ≤ 6937239 ∧
    ((item 1530 6934000 false).due ≤ 6937239 ∧ 6937239 ≤ (item 1530 6934000 false).due + 5000) ∧
    (∀ z ∈ [item 1311 6937240 false].head?, 6937239 < z.due) ∧
    ((item 1311 6937239 false).due ≤ 6937239 ∧ (item 1311 6937239 false).priority = false ∧
      ∀ y ∈ (s (item 1311 6937239 false)).screens[(2 : ScreenNo)].lines, y.isSome = true) ∧
    6937239 < (item 1311 6937240 false).due ∧ (item 1311 6932238 false).due + 5000 < 6937239 := by decide +kernel

/-- 9.9 row 13: both lines full, the head of bib 1530 due. -/
def full99 (priority : Bool) : State :=
  screen2 6938000 [item 1530 6938000 priority, item 1311 6947000 false]
    [shown (item 1888 6936800 false) 6937239, shown (item 1702 6934500 false) 6936000] false 43 none

theorem witness_HeadPreemptsOrWaits :
    ((full99 false).clock.state = .running ∧ (full99 false).screens[(2 : ScreenNo)].waiting = false ∧
      (full99 false).screens[(2 : ScreenNo)].queue = item 1530 6938000 false :: [item 1311 6947000 false] ∧
      (item 1530 6938000 false).due ≤ (full99 false).clock.value ∧
      (full99 false).clock.value ≤ (item 1530 6938000 false).due + 5000 ∧
      (∀ y ∈ (full99 false).screens[(2 : ScreenNo)].lines, y.isSome = true) ∧
      (item 1530 6938000 false).priority = false) ∧
    ((item 1530 6938000 true).priority = true ∧
      (full99 true).screens[(2 : ScreenNo)].lines[1]? =
        some (some { item := item 1702 6934500 false, shownAt := 6936000, expiry := 6940000 }) ∧
      (item 1702 6934500 false).priority = false ∧
      (∀ y ∈ [item 1311 6947000 false].head?, (full99 true).clock.value < y.due)) ∧
    ((screen2 6943001 [item 1530 6938000 true] [none, none] false 43 none).screens[(2 : ScreenNo)].queue =
        item 1530 6938000 true :: [] ∧ (item 1530 6938000 true).due + 5000 < 6943001) := by decide +kernel

/-- Of the two lines of 9.9 row 13, the second has the non-priority item that was shown earliest. -/
theorem witness_HeadPreemptsOrWaits_earliest : ∀ (j : Nat) (y : ShownItem),
    (full99 true).screens[(2 : ScreenNo)].lines[j]? = some (some y) → y.item.priority = false →
    6936000 ≤ y.shownAt ∧ (j < 1 → 6936000 < y.shownAt) := by
  intro j y h _
  match j, h with
  | 0, h => cases h; decide
  | 1, h => cases h; decide
  | n + 2, h => exact absurd h (by simp [full99, screen2])

theorem witness_ScreenHelloAndHold :
    base.startUp = false ∧
    (let s := { screen2 0 [] [none, none] false 40 (some { last := 40, deadline := 2000 }) with elapsed := 2000 }
     s.screens[(2 : ScreenNo)].held = some { last := 40, deadline := 2000 } ∧ 2000 ≤ s.elapsed) := by decide +kernel

theorem witness_FrameRequestIsAnswered :
    base.startUp = false ∧ base.screens[(2 : ScreenNo)].link = .down ∧
    ((after (.screenHello 2) base).screens[(2 : ScreenNo)].link = .up ∧
      (after (.screenHello 2) base).screens[(2 : ScreenNo)].session = .fresh) ∧
    (let x := (screen2 0 [] [none, none] false 40 none).screens[(2 : ScreenNo)]
     x.link = .up ∧ x.session = .answered ∧ (39 : Half) ≠ x.seq ∧ 40 = x.seq ∧ x.profile.pollHold ≠ 0) := by
  decide +kernel

/-- The arguments of SET PROFILE at the ends of their ranges. -/
def edgeProfile : ProfileArgs :=
  { enabled := none, trigger := 9, gap := 2000, lead := 10000, defaultPace := some 600, lines := 4, hold := some 15000,
    stale := some 30000, waves := [15], showEstimated := false, showProjection := false, pollHold := some 10000 }

theorem witness_SetProfileEmptiesScreen :
    (base.inCharge .a ∧ (7 : Byte).toNat = (7 : ScreenNo).val ∧ edgeProfile.trigger.toNat = (9 : Point).val ∧
      (edgeProfile.gap.toNat ≤ 2000 ∧ edgeProfile.lead.toNat ≤ 10000 ∧ 1 ≤ edgeProfile.lines.toNat ∧
        edgeProfile.lines.toNat ≤ 4) ∧ (∀ b ∈ edgeProfile.waves, b.toNat ≤ 15) ∧
      [(15 : Wave)] = (List.finRange 16).filter (fun w => edgeProfile.waves.any fun b => b.toNat == w.val)) ∧
    7 < (8 : Byte).toNat ∧ { edgeProfile with lines := 5 }.lines.toNat = 5 := by decide +kernel

theorem witness_SetProfileEmptiesScreen_options :
    (∀ v ∈ edgeProfile.defaultPace, 150 ≤ v.toNat ∧ v.toNat ≤ 600) ∧
    (∀ v ∈ edgeProfile.hold, 1000 ≤ v.toNat ∧ v.toNat ≤ 15000) ∧ (∀ v ∈ edgeProfile.stale, v.toNat ≤ 30000) ∧
    (∀ v ∈ edgeProfile.pollHold, v.toNat ≤ 10000) :=
  ⟨forall_mem_some (by decide), forall_mem_some (by decide), forall_mem_some (by decide), forall_mem_some (by decide)⟩

theorem witness_ControlSilenceReleasesToken :
    (let s := { tokens (.held .a) (some .b) with elapsed := 10000 }
     (s.controlLink .a).link = .up ∧ (s.controlLink .a).timer = some 10000 ∧ 10000 ≤ s.elapsed ∧
     s.control.token = .held .a ∧ s.control.claim = some (Side.a).other) ∧
    ((tokens (.held .a) none).control.claim ≠ some (Side.a).other) ∧
    ((tokens (.held .b) (some .a)).control.token ≠ .held .a ∧ (tokens (.held .b) (some .a)).control.claim = some .a) ∧
    ((tokens .free none).control.token ≠ .held .a ∧ (tokens .free none).control.claim ≠ some .a) := by decide +kernel

theorem witness_ClaimAndSeizeTakeToken :
    ((tokens .free none).ready .a ∧ (tokens .free none).control.token = .free) ∧
    ((tokens (.held .a) none).ready .a ∧ (tokens (.held .a) none).control.token = .held .a) ∧
    ((tokens (.held .b) none).ready .a ∧ (tokens (.held .b) none).control.token = .held (Side.a).other) ∧
    (tokens (.held .b) none).ready .b := by decide +kernel

theorem witness_ReleaseAndPassGiveToken :
    ((tokens (.held .a) (some .b)).ready .a ∧ (tokens (.held .a) (some .b)).control.token = .held .a ∧
      (tokens (.held .a) (some .b)).control.claim = some (Side.a).other) ∧
    (tokens (.held .a) none).control.claim ≠ some (Side.a).other ∧
    ((tokens (.held .b) (some .a)).control.token ≠ .held .a ∧ (tokens (.held .b) (some .a)).control.claim = some .a) ∧
    ((tokens .free none).control.token ≠ .held .a ∧ (tokens .free none).control.claim ≠ some .a) ∧
    (base.control.token = .held .a ∧ (base.controlLink (Side.a).other).link = .up) ∧
    ((after (.controlSilenceDeadline .b) { base with elapsed := 10000 }).controlLink (Side.a).other).link = .down := by
  decide +kernel

theorem witness_ConditionCommands :
    base.ready .b ∧ (∀ b ∈ [(1 : Byte), 18], 1 ≤ b.toNat ∧ b.toNat ≤ 18) ∧
    (∃ b ∈ [(19 : Byte)], b.toNat = 0 ∨ 18 < b.toNat) ∧ (∃ b ∈ [(0 : Byte)], b.toNat = 0 ∨ 18 < b.toNat) := by
  decide +kernel

/-- Sixteen bibs, none 0 and none twice. -/
def sixteen : List Half := (List.range 16).map fun i => BitVec.ofNat 16 (i + 1)

theorem witness_WatchCommands :
    (base.inCharge .a ∧ sixteen.length ≤ 16 ∧ 0 ∉ sixteen ∧ sixteen.Nodup) ∧ 16 < (17 :: sixteen).length ∧
    0 ∈ [(0 : Half)] ∧ (([7, 7] : List Half).length ≤ 16 ∧ 0 ∉ ([7, 7] : List Half) ∧ ¬ ([7, 7] : List Half).Nodup) ∧
    base.ready .b ∧ (1 ≤ (1 : Byte).toNat ∧ (16 : Byte).toNat ≤ 16) ∧ (0 : Byte).toNat = 0 ∧ 16 < (17 : Byte).toNat := by
  decide +kernel

theorem witness_QueriesOnlyAnswer :
    race.ready .b ∧ (11 : Byte).toNat = (11 : Port).val ∧ 11 < (12 : Byte).toNat ∧ (7 : Byte).toNat = (7 : ScreenNo).val ∧
    7 < (8 : Byte).toNat ∧ (63 : Byte).toNat ≤ 63 ∧ 63 < (64 : Byte).toNat ∧
    (race.registry.state = .ready ∧ (1207 : Half) ≠ 0 ∧ race.runner 1207 = some anna) ∧ race.runner 9999 = none := by
  decide +kernel

/-- The race before its first gun: the course is not locked. -/
def unlocked : State := { race with clock := base.clock }

theorem witness_CourseCommands :
    unlocked.mayEdit .a ∧ 9 < (10 : Byte).toNat ∧ 60000 < (60001 : Half).toNat ∧ 1 < (2 : Byte).toNat ∧
    ((6 : Byte).toNat = (6 : Point).val ∧ (60000 : Half).toNat ≤ 60000 ∧ (1 : Byte).toNat ≤ 1 ∧
      unlocked.clock.locked = false ∧ (∀ q : Point, q < 6 → unlocked.registry.course[q].isSome = true)) ∧
    race.clock.locked = true ∧
    (let s := after (.setPort .a 1 10 none none) unlocked
     s.mayEdit .a ∧ s.clock.locked = false ∧ (5 : Byte).toNat = (5 : Point).val ∧
     s.registry.course[(5 : Point)].isSome = true ∧ (∀ q : Point, 5 < q → s.registry.course[q] = none) ∧
     (∀ x : Port, s.registry.ports[x].point ≠ some 5) ∧
     ∀ r ∈ s.registry.runners, r.crossings[(5 : Point)] = none) := by decide +kernel

/-- 42,195 m at point 5 is below the 60,000 m that SET POINT 6 gives, and nothing stands above point 6. -/
theorem witness_CourseCommands_fits :
    ((6 : Point).val = 0 → (60000 : Half).toNat = 0) ∧
    (∀ q : Point, ∀ x, q.val + 1 = (6 : Point).val → unlocked.registry.course[q] = some x →
      x.distance < (60000 : Half).toNat) ∧
    (∀ q : Point, ∀ x, q.val = (6 : Point).val + 1 → unlocked.registry.course[q] = some x →
      (60000 : Half).toNat < x.distance) := by
  refine ⟨by decide, ?_, ?_⟩
  · intro q x hq h
    have : q = 5 := by ext; simpa using hq
    subst this; cases h; decide
  · intro q x hq h
    have : q = 7 := by ext; simpa using hq
    subst this; cases h

theorem witness_SetPortAssigns :
    race.mayEdit .a ∧ 11 < (12 : Byte).toNat ∧
    ((11 : Byte).toNat = (11 : Port).val ∧
      2000 = ((some (2000 : Half)).map fun v => v.toNat).getD race.registry.ports[(11 : Port)].allowance) ∧
    race.registry.course[(6 : Point)] = none ∧
    (race.registry.course[(0 : Point)].isSome = true ∧
      2 ≤ ((List.finRange 12).filter fun x : Port => x != 11 && race.registry.ports[x].point == some 0).length) ∧
    (race.registry.course[(2 : Point)].isSome = true ∧
      ((List.finRange 12).filter fun x : Port => x != 11 && race.registry.ports[x].point == some 2).length < 2) := by
  decide +kernel

theorem witness_SetPortAssigns_options :
    (∃ b ∈ some (10 : Byte), 9 < b.toNat) ∧ (∃ v ∈ some (2001 : Half), 2000 < v.toNat) ∧
    (∀ v ∈ some (2000 : Half), v.toNat ≤ 2000) :=
  ⟨⟨_, rfl, by decide⟩, ⟨_, rfl, by decide⟩, forall_mem_some (by decide)⟩

theorem witness_SetLimitsApplies :
    race.mayEdit .a ∧ ((port7 5999).align[(7 : Port)].sync = .synced ∧
      (port7 5999).align[(7 : Port)].history.getLast? = some ⟨1000, 500001000⟩ ∧
      (port7 5999).clock.value < min (1000 + (port7 5999).registry.limits.staleHorizon) 4294967295) ∧
    min (1000 + (port7 6000).registry.limits.staleHorizon) 4294967295 ≤ (port7 6000).clock.value := by decide +kernel

theorem witness_SetLimitsApplies_options :
    (∀ v ∈ some (400 : Half), 100 ≤ v.toNat ∧ v.toNat ≤ 400) ∧
    ¬ (∀ v ∈ some (401 : Half), 100 ≤ v.toNat ∧ v.toNat ≤ 400) :=
  ⟨forall_mem_some (by decide), fun h => absurd (h 401 rfl) (by decide)⟩

/-- A runner table of 32,768 records. -/
def fullTable : State := { base with registry := { base.registry with runners := List.replicate 32768 anna } }

theorem witness_RegisterAddsRunner :
    race.mayEdit .a ∧
    ((3001 : Half) ≠ 0 ∧ (15 : Byte).toNat ≤ 15 ∧ [(1 : Word32), 2].length ≤ 2 ∧ 0 ∉ [(1 : Word32), 2]) ∧
    ¬ (0 ∉ [(0 : Word32)]) ∧ ¬ [(5 : Word32), 5].Nodup ∧ (∃ r ∈ race.registry.runners, r.bib = 1207) ∧
    ([(1 : Word32), 2].Nodup ∧ (∀ r ∈ race.registry.runners, r.bib ≠ 3001) ∧ race.registry.runners.length < 32768) ∧
    (15 : Byte).toNat = (15 : Wave).val := by decide +kernel

theorem witness_RegisterAddsRunner_chips :
    (∃ chip ∈ [(5001 : Word32)], (race.bibOf chip).isSome = true) ∧
    ∀ chip ∈ [(1 : Word32), 2], race.bibOf chip = none :=
  ⟨⟨5001, List.mem_singleton_self _, by decide⟩, fun chip h => by
    rcases List.mem_pair.mp h with rfl | rfl <;> decide⟩

theorem witness_RegisterAddsRunner_name :
    ∀ n ∈ some (List.replicate 12 (0x7E : Byte)), n.length ≤ 12 ∧ ∀ c ∈ n, 0x20 ≤ c.toNat ∧ c.toNat ≤ 0x7E :=
  forall_mem_some (by decide)

theorem witness_RegisterAddsRunner_full :
    fullTable.mayEdit .a ∧ (∀ r ∈ fullTable.registry.runners, r.bib ≠ 3001) ∧
    32768 ≤ fullTable.registry.runners.length := by
  refine ⟨⟨⟨⟨rfl, rfl⟩, rfl⟩, rfl⟩, fun r h => ?_, ?_⟩
  · rw [List.eq_of_mem_replicate h]; decide
  · exact le_of_eq (List.length_replicate (n := 32768) (a := anna)).symm

/-- A registered runner without a crossing. -/
def newcomer : Runner :=
  { bib := 7, wave := 0, chips := [70], name := none, status := .registered, crossings := Vector.replicate 10 none }

/-- `base` with the newcomer. -/
def oneRunner : State := { base with registry := { base.registry with runners := [newcomer], chipMap := [(70, 7)] } }

theorem witness_RemoveAndSetName :
    oneRunner.mayEdit .a ∧ oneRunner.runner 8 = none ∧
    (oneRunner.runner 7 = some newcomer ∧ newcomer.status = .registered ∧
      ∀ p : Point, newcomer.crossings[p] = none) ∧ anna.status ≠ .registered := by decide +kernel

theorem witness_RemoveAndSetName_name :
    (∀ n ∈ some [(0x20 : Byte)], n.length ≤ 12 ∧ ∀ c ∈ n, 0x20 ≤ c.toNat ∧ c.toNat ≤ 0x7E) ∧
    ¬ (∀ n ∈ some [(0x7F : Byte)], n.length ≤ 12 ∧ ∀ c ∈ n, 0x20 ≤ c.toNat ∧ c.toNat ≤ 0x7E) :=
  ⟨forall_mem_some (by decide), fun h => absurd (h _ rfl) (by decide)⟩

theorem witness_AmendClearAndAccept :
    race.mayEdit .a ∧ 9 < (10 : Byte).toNat ∧ race.runner 9999 = none ∧
    ((1207 : Half) ≠ 0 ∧ (3 : Byte).toNat = (3 : Point).val ∧ race.runner 1207 = some anna) ∧
    race.registry.course[(6 : Point)] = none ∧ race.registry.course[(3 : Point)].isSome = true ∧
    race.clock.value < (6892701 : Word32).toNat ∧ (6892700 : Word32).toNat ≤ race.clock.value ∧
    anna.crossings[(3 : Point)] = none ∧ anna.crossings[(2 : Point)] = some (good 5048210 3 800) ∧
    (good 5048210 3 800).suspect = none ∧
    (let x := { good 6890770 4 1641 with place := none, suspect := some .fast }
     (withAt3 x).runner 1207 = some (anna.withCrossing 3 (some x)) ∧ x.suspect.isSome = true) := by decide +kernel

theorem witness_StatusCommands :
    race.mayEdit .a ∧ race.runner 9999 = none ∧ ((1207 : Half) ≠ 0 ∧ race.runner 1207 = some anna) ∧
    anna.status = .running ∧ anna.status ≠ .disqualified ∧
    (let s := race.putRunner { anna with status := .disqualified }
     s.runner 1207 = some { anna with status := .disqualified }) ∧ RunnerStatus.finished ≠ .registered := by
  decide +kernel

/-- A screen with nothing of bib 1207, with it on a line, at the head, and only behind the head. -/
theorem witness_StatusCommands_screens :
    let x := fun q l => (screen2 6893000 q l false 40 none).screens[(2 : ScreenNo)]
    let line := shown (item 1207 6890000 false) 6890000
    let cleared := fun y : Screen => clearLines (fun z => z.bib == 1207) y.lines
    (∀ y ∈ (x [item 1530 6900000 false] [none, none]).items, y.bib ≠ 1207) ∧
    cleared (x [] [line, none]) ≠ (x [] [line, none]).lines ∧ (∃ y ∈ (x [] [line, none]).items, y.bib = 1207) ∧
    (item 1207 6900000 false).bib = 1207 ∧
    ((x [item 1207 6900000 false] [none, none]).queue.head? = some (item 1207 6900000 false)) ∧
    (let y := x [item 1530 6895000 false, item 1207 6900000 false] [none, none]
     cleared y = y.lines ∧ (y.queue.filter fun z => z.bib ≠ 1207) ≠ y.queue ∧
     y.queue.head? = some (item 1530 6895000 false) ∧ (item 1530 6895000 false).bib ≠ 1207) := by decide +kernel

theorem witness_BindAndDiscard :
    (parked.mayEdit .a ∧ (7310 : Word32) ≠ 0 ∧ (1207 : Half) ≠ 0 ∧ parked.runner 9999 = none) ∧
    (parked.runner 1207 = some anna ∧ anna.chips.length < 2 ∧ parked.bibOf 7310 = none ∧
      (parked.park.find? fun y => y.chip == 7310) = parked.park.head? ∧ parked.park.head?.isSome = true) ∧
    (∀ e ∈ parked.park, e.chip ≠ 9017) ∧ (parked.bibOf 5001).isSome = true ∧
    2 ≤ ((race.putRunner { anna with chips := [5001, 5] }).runner 1207).elim 0 (fun r => r.chips.length) ∧
    (∃ e ∈ parked.park, e.chip = 7310) := by decide +kernel

theorem witness_TallyCommands :
    base.inCharge .a ∧ ((7 : Byte).toNat = (7 : Fin 8).val ∧ TallyClass.all[(18 : Byte).toNat]? = some .itemShown ∧
      (∀ q ∈ [(7 : Byte)], q.toNat < TallyClass.itemShown.qualifierCount) ∧ (some 1 : Option Word32) ≠ some 0) ∧
    7 < (8 : Byte).toNat ∧ 18 < (19 : Byte).toNat ∧
    (TallyClass.all[(0 : Byte).toNat]? = some .none ∧ ∃ q ∈ [(0 : Byte)], TallyClass.none.qualifierCount ≤ q.toNat) ∧
    (∀ b ∈ [(1 : Byte), 18], 1 ≤ b.toNat ∧ b.toNat ≤ 18) ∧ (∃ b ∈ [(19 : Byte)], b.toNat = 0 ∨ 18 < b.toNat) := by
  decide +kernel

theorem witness_EventsAndConditionsAreMarked :
    (after (.freeze .a 1 none) base).tally.frozen = true ∧
    (let s := tallying
     s.tally.frozen = false ∧ TallyClass.readDropped ≠ .none ∧
     (s.tally.tallies[(0 : Fin 8)].cls = .readDropped ∧ 3 ∈ s.tally.tallies[(0 : Fin 8)].qualifiers ∧
      s.tally.tallies[(0 : Fin 8)].limit = some (s.tally.tallies[(0 : Fin 8)].value + 1) ∧
      s.tally.tallies[(0 : Fin 8)].stop = true) ∧
     (∀ i : Fin 8, s.tally.tallies[i].cls ≠ .itemShown)) := by decide +kernel

theorem witness_StoreCycleAndRestart :
    (base.inCharge .a ∧ base.store.state = .idle) ∧ (after (.store .a 1) base).store.state ≠ .idle ∧
    (after (.store .a 1) base).store.state = .erasing ∧
    (after .eraseCompletion (after (.store .a 1) base)).store.state = .writing ∧
    (after .eraseCompletion (after (.store .a 1) base)).store.snapshot = some base.settings := by decide +kernel

theorem witness_MessagesRoundTrip :
    (Instr.register .b 9 1207 0 [5001, 5002] (some [0x41])).wellFormed = true ∧
    (Instr.register .b 9 1207 0 [5001, 5002] (some [0x41])).message =
      some ⟨.control .b, 0x21, [9, 23, 4, 0xB7, 0, 2, 0, 0, 0x13, 0x89, 0, 0, 0x13, 0x8A, 1, 1, 0x41]⟩ := by decide +kernel

/-! ## Witnesses of the invariants: sound states that are not the state after reset -/

/-- The race of chapter 6, with a command to take, a sync record on port 4, a read in its list and one open passage. -/
def racing (c : Instr) : State :=
  let s := portUp 4 [aRead 5001 912355770 58 6892600] 31 1 32 0 race
  { (s.withAlign 4 { history := [⟨6892000, 912357000⟩], rate := 0, sync := .synced, staleDeadline := some 6897000
      }).withPassages 4 [aPassage 5001 6890690 6890770 58 6890900 6891700] with pending := [c] }

theorem witness_StepKeepsClockAndAlignment : (racing .countedMillisecond).clock.Sound ∧
    (racing .countedMillisecond).Aligned ∧
    step (racing .countedMillisecond) = .next (after .countedMillisecond { racing .countedMillisecond with pending := [] }) := by
  refine ⟨⟨by decide, by decide, by decide, ?_, ?_, ?_, ?_⟩, ?_, rfl⟩
  · intro t h; cases h; decide
  · intro w t h
    revert h
    fin_cases w <;> intro h <;> cases h
    decide
  · intro _; rfl
  · exact ⟨fun _ => ⟨0, rfl⟩, fun _ => rfl⟩
  · have h : ∀ p : Port, p ≠ 4 → (racing .countedMillisecond).align[p] = Alignment.reset := by decide
    intro p
    by_cases hp : p = 4
    · subst hp
      refine ⟨⟨by decide, trivial, by decide, by decide, by decide, by decide⟩, ?_⟩
      intro r hr
      rw [List.mem_singleton.mp hr]
      exact ⟨6892000, rfl, by decide⟩
    · rw [h p hp]
      refine ⟨⟨by decide, trivial, by decide, by decide, by decide, by decide⟩, ?_⟩
      intro r hr
      cases hr

theorem witness_StepKeepsBalanceAndPassages :
    (racing (.closeDeadline 4 5001)).Balanced ∧ (racing (.closeDeadline 4 5001)).PassagesSound ∧
    step (racing (.closeDeadline 4 5001)) =
      .next (after (.closeDeadline 4 5001) { racing (.closeDeadline 4 5001) with pending := [] }) := by
  refine ⟨?_, ⟨?_, ?_⟩, rfl⟩
  · unfold State.Balanced State.PortBalanced
    intro p
    refine ⟨by revert p; decide +kernel, by revert p; decide +kernel, by revert p; decide +kernel,
      by revert p; decide +kernel, by revert p; decide +kernel⟩
  · decide +kernel
  · intro h hh; cases hh

theorem witness_StepKeepsSettingsAndStore :
    (racing (.store .a 1)).SettingsSound ∧ (racing (.store .a 1)).StoreSound ∧
    step (racing (.store .a 1)) = .next (after (.store .a 1) { racing (.store .a 1) with pending := [] }) := by
  refine ⟨⟨⟨⟨by decide +kernel, ?_, ?_, ?_⟩, ⟨?_, by decide +kernel, by decide +kernel⟩, by unfold Limits.Sound; decide, ?_⟩,
    ?_, ?_⟩, ⟨by decide, by decide, by decide, by decide⟩, rfl⟩
  · intro x h; cases h; rfl
  · intro p q x y hqp hp hq
    have h : ∀ p q : Point, q < p → course58[p].any (fun x => course58[q].any fun y => decide (x.distance ≤ y.distance)) =
        false := by decide +kernel
    have hp' : course58[p] = some x := hp
    have hq' : course58[q] = some y := hq
    simpa [hp', hq'] using h p q hqp
  · intro p x hp
    have h : ∀ p : Point, course58[p].all (fun x => decide (x.distance ≤ 60000)) = true := by decide +kernel
    have hp' : course58[p] = some x := hp
    simpa [hp'] using h p
  · intro p q hp
    have h : ∀ p : Port, ports58[p].point.all (fun q => course58[q].isSome) = true := by decide +kernel
    have hx := h p
    have hp' : ports58[p].point = some q := hp
    rw [hp'] at hx
    exact hx
  · have h : ∀ k : ScreenNo, (racing (.store .a 1)).settings.profiles[k] = Profile.defaults := by decide +kernel
    intro k
    rw [h k]
    unfold Profile.Sound
    decide
  · intro w h; cases h
  · intro w h; cases h

theorem witness_StepKeepsRunnersChipsAndPark :
    (racing (.closeDeadline 4 5001)).RunnersSound ∧ (racing (.closeDeadline 4 5001)).ChipsSound ∧
    (racing (.closeDeadline 4 5001)).ParkSound ∧ step (racing (.closeDeadline 4 5001)) =
      .next (after (.closeDeadline 4 5001) { racing (.closeDeadline 4 5001) with pending := [] }) := by
  refine ⟨⟨by decide, by decide, ?_, by decide⟩, ⟨by decide, ?_⟩, ⟨by decide, by decide, by decide, by decide⟩, rfl⟩
  · have h : ∀ r ∈ [anna, late], ∀ p : Point, r.crossings[p].all (fun c => !c.amended && c.source != .control &&
        c.place.any (fun n => decide (1 ≤ n ∧ n ≤ 65535)) && course58[p].isSome) = true := by decide +kernel
    intro r hr
    refine ⟨?_, ?_, ?_, ?_, ?_⟩
    · revert r; decide
    · revert r; decide
    · revert r; decide
    · revert r; decide
    · intro p c hc
      have hx := h r hr p
      rw [hc] at hx
      simp only [Option.all_some, Bool.and_eq_true, Bool.not_eq_true', bne_iff_ne, ne_eq] at hx
      obtain ⟨⟨⟨ha, hs⟩, hp⟩, hcs⟩ := hx
      refine ⟨⟨by simp [ha, hs], by simp [ha], ?_, ?_⟩, hcs⟩
      · intro hn; simp [hn] at hp
      · intro n hn; simpa [hn] using hp
  · intro chip bib
    constructor
    · intro h
      rcases List.mem_pair.mp h with h | h
      · cases h; exact ⟨anna, by decide, rfl, by decide⟩
      · cases h; exact ⟨late, by decide, rfl, by decide⟩
    · rintro ⟨r, hr, hb, hc⟩
      rcases List.mem_pair.mp hr with rfl | rfl
      · rw [← hb, List.mem_singleton.mp hc]; decide
      · rw [← hb, List.mem_singleton.mp hc]; decide

/-- 9.9 row 13 with a command to take. -/
def screening : State := { full99 true with pending := [.dueDeadline 2] }

theorem witness_StepKeepsScreens : screening.ScreensSound ∧
    step screening = .next (after (.dueDeadline 2) { screening with pending := [] }) := by
  refine ⟨?_, rfl⟩
  unfold State.ScreensSound Screen.Sound
  decide +kernel

theorem witness_StepKeepsTokenWatchAndTallies :
    (let s := { tallying with
       pending := [.release .a 1]
       control := { tallying.control with claim := some .b, watchList := [1530] } }
     s.TokenSound ∧ s.WatchSound ∧ s.TalliesSound ∧ step s = .next (after (.release .a 1) { s with pending := [] })) := by
  refine ⟨?_, ⟨by decide, by decide, by decide, by decide⟩, ?_, rfl⟩
  · intro l h; cases h; rfl
  · unfold State.TalliesSound
    decide +kernel

theorem witness_StepKeepsRaceReset :
    (let s := { resetting with pending := [.runnerRecordClearing 1207] }
     s.ResetSound ∧ step s = .next (after (.runnerRecordClearing 1207) resetting)) := by
  refine ⟨⟨?_, by decide, by decide, by decide⟩, rfl⟩
  intro l; cases l <;> decide

end Sys2Proof.Tests
end

/-! Proofs about REF at the race clock (chapter 1.2): one equation for the branch that each of the two events takes when
its edge is detected, and the obligation assembled from them. -/

namespace Sys2Proof.Machine

theorem exec_refLoss (s : State) : exec .refLoss s = execRefLoss s := rfl

theorem exec_refReturn (s : State) : exec .refReturn s = execRefReturn s := rfl

theorem execRefLoss_of_present {s : State} (hsup : s.clock.supervised = true) (href : s.clock.ref = .present) :
    execRefLoss s = .next ((s.withClock { s.clock with ref := .lost }).raise .refLost) := by
  simp [execRefLoss, hsup, href]

theorem execRefReturn_of_lost {s : State} (hsup : s.clock.supervised = true) (href : s.clock.ref = .lost) :
    execRefReturn s = .next (s.withClock { s.clock with ref := .present }) := by
  simp [execRefReturn, hsup, href]

/-- Settles O12: each event, supervised and at the status it starts from, takes its effective branch (R6), and
`withClock` is the update of the clock block that the obligation writes out. -/
theorem refLossAndReturn : Obligations.RefLossAndReturn := by
  unfold Obligations.RefLossAndReturn
  constructor
  · intro s hsup href
    rw [exec_refLoss, execRefLoss_of_present hsup href, State.withClock]
  · intro s hsup href
    rw [exec_refReturn, execRefReturn_of_lost hsup href, State.withClock]

end Sys2Proof.Machine

/-! Proofs about Mat Intake (chapter 2): what a message does to its port's account, how MAT_HELLO opens a session, and
how READ is dropped or accepted. -/

namespace Sys2Proof.Machine

/-! ## Writing a port's account -/

/-- Of two writes of one port's account the later one stands. -/
theorem State.withIntake_withIntake (s : State) (p : Port) (m n : MatIntake) :
    (s.withIntake p m).withIntake p n = s.withIntake p n := by
  simp [State.withIntake]

/-- An account that is overwritten after some events were counted may as well not have been written before them. -/
theorem State.withIntake_countTimes_withIntake (s : State) (p : Port) (m n : MatIntake) (c : TallyClass) (q k : Nat) :
    ((s.withIntake p m).countTimes c q k).withIntake p n = (s.countTimes c q k).withIntake p n := by
  rw [(State.withIntake_aside p m).countTimes, State.withIntake_withIntake]

/-! ## The silence timer -/

/-- The account of an UP port after a message at the elapsed time `e` restarted its silence timer (R18, R21). -/
def MatIntake.heardAt (m : MatIntake) (e : Nat) : MatIntake := { m with timer := some (e + Config.matSilence) }

@[simp] theorem MatIntake.heardAt_outstanding (m : MatIntake) (e : Nat) :
    (m.heardAt e).outstanding = m.outstanding := rfl

@[simp] theorem seqDistance_heardAt (m : MatIntake) (e : Nat) (seq : Byte) :
    seqDistance (m.heardAt e) seq = seqDistance m seq := rfl

theorem State.hearMat_of_up {s : State} {p : Port} (hup : s.intake[p].link = .up) :
    s.hearMat p = s.withIntake p (s.intake[p].heardAt s.elapsed) := by
  rw [State.hearMat, hup]
  rfl

/-! ## MAT_HELLO -/

theorem exec_matHello (p : Port) (s : State) : exec (.matHello p) s = execMatHello p s := rfl

/-- Opening a session does not read the alignment, so it may be cleared before or after. -/
theorem State.openSession_withAlign (s : State) (p : Port) (a : Alignment) :
    (s.withAlign p a).openSession p = (s.openSession p).withAlign p a := rfl

theorem execMatHello_of_down {s : State} {p : Port} (hdown : s.intake[p].link = .down) :
    execMatHello p s = .next (s.openSession p) := by
  rw [execMatHello, hdown]
  rfl

theorem execMatHello_of_up {s : State} {p : Port} (hup : s.intake[p].link = .up) :
    execMatHello p s = .next ((s.openSession p).withAlign p Alignment.reset) := by
  rw [execMatHello, hup, ← State.openSession_withAlign]
  rfl

/-- Settles O16: on a DOWN port MAT_HELLO is `openSession` alone, on an UP port the alignment is cleared besides; the
obligation writes out the fields of both updates. -/
theorem helloOpensSession : Obligations.HelloOpensSession := by
  unfold Obligations.HelloOpensSession
  intro s p credits opened
  constructor
  · intro hdown
    rw [exec_matHello, execMatHello_of_down hdown]
    rfl
  · intro hup
    rw [exec_matHello, execMatHello_of_up hup]
    rfl

/-! ## READ: the port's link -/

theorem exec_read (p : Port) (seq : Byte) (chip dtime : Word32) (level : Byte) (s : State) :
    exec (.read p seq chip dtime level) s = execRead p seq chip dtime level s := rfl

theorem execRead_of_down {s : State} {p : Port} (seq : Byte) (chip dtime : Word32) (level : Byte)
    (hdown : s.intake[p].link = .down) :
    execRead p seq chip dtime level s = .next (s.count .readDropped p) := by
  rw [execRead, hdown]
  rfl

theorem execRead_of_up {s : State} {p : Port} (seq : Byte) (chip dtime : Word32) (level : Byte)
    (hup : s.intake[p].link = .up) :
    execRead p seq chip dtime level s = .next ((s.withIntake p (s.intake[p].heardAt s.elapsed)).classifyRead p seq
      { chip, dtime, level, arrival := s.clock.value }) := by
  rw [execRead, State.hearMat_of_up hup, hup]
  rfl

/-! ## READ: credits and distance -/

section
variable (s : State) {p : Port} {m : MatIntake} {seq : Byte} {x : IntakeRead} {e : Nat}

theorem State.classifyRead_of_no_credit (hcredit : m.outstanding = 0) :
    (s.withIntake p (m.heardAt e)).classifyRead p seq x =
      ((s.withIntake p (m.heardAt e)).count .readDropped p).raise .creditOverrun := by
  simp [State.classifyRead, hcredit]

theorem State.classifyRead_of_distance_ge (hcredit : m.outstanding ≠ 0) (hout : m.outstanding ≤ seqDistance m seq) :
    (s.withIntake p (m.heardAt e)).classifyRead p seq x = (s.withIntake p (m.heardAt e)).count .readDropped p := by
  simp [State.classifyRead, hcredit, hout.not_gt]

theorem State.classifyRead_of_distance_lt (hin : seqDistance m seq < m.outstanding) :
    (s.withIntake p (m.heardAt e)).classifyRead p seq x =
      (s.withIntake p (m.heardAt e)).acceptRead p (seqDistance m seq) seq x := by
  have hcredit : m.outstanding ≠ 0 := by omega
  simp [State.classifyRead, hcredit, hin]

/-! ## READ: the accepted read -/

/-- A read of a chip joins the list; the check that follows returned credits comes before the take (R24, R25, R51). -/
theorem State.acceptRead_of_chip_ne_zero (lost : Nat) (hchip : x.chip ≠ 0) :
    (s.withIntake p m).acceptRead p lost seq x =
      let t := ((s.countTimes .readLost p lost).withIntake p ((m.refund lost).accept seq x)).count .readAccepted p
      (if lost = 0 then t else t.creditCheck p).takeReads := by
  simp only [State.acceptRead, hchip, if_false, State.withIntake_same, State.withIntake_countTimes_withIntake]

/-- A read of chip 0 is dropped and its own credit is returned with those of the lost reads (R25, R27). -/
theorem State.acceptRead_of_chip_eq_zero (lost : Nat) (hchip : x.chip = 0) :
    (s.withIntake p m).acceptRead p lost seq x =
      (((s.countTimes .readLost p lost).withIntake p { (m.refund lost).refund 1 with expected := seq + 1 }).count
        .readDropped p).creditCheck p := by
  simp only [State.acceptRead, hchip, if_true, State.withIntake_same, State.withIntake_countTimes_withIntake]

end

/-- Settles O18: the three drops are the DOWN port, the UP port without a credit, and the distance that the outstanding
credits do not reach (R26). -/
theorem readIsDropped : Obligations.ReadIsDropped := by
  unfold Obligations.ReadIsDropped
  intro s p seq chip dtime level heard
  refine ⟨fun hdown => ?down, fun hup hcredit => ?overrun, fun hup hcredit hout => ?outOfWindow⟩
  case down => rw [exec_read, execRead_of_down _ _ _ _ hdown]
  case overrun =>
    rw [exec_read, execRead_of_up _ _ _ _ hup, State.classifyRead_of_no_credit _ hcredit]
    rfl
  case outOfWindow =>
    rw [exec_read, execRead_of_up _ _ _ _ hup, State.classifyRead_of_distance_ge _ hcredit hout]
    rfl

/-- Settles O17: within the credit window the read is accepted, and its chip decides whether it joins the list or is
dropped; the account that the obligation writes out is the one with the timer restarted, `d` credits returned and the
read accepted. -/
theorem readIsAccepted : Obligations.ReadIsAccepted := by
  unfold Obligations.ReadIsAccepted
  intro s p seq chip dtime level d hup hd hin m lost
  subst hd
  have haccept : exec (.read p seq chip dtime level) s = .next ((s.withIntake p (m.heardAt s.elapsed)).acceptRead p
      (seqDistance m seq) seq { chip, dtime, level, arrival := s.clock.value }) := by
    rw [exec_read, execRead_of_up _ _ _ _ hup, State.classifyRead_of_distance_lt _ hin]
  constructor
  · intro hchip t
    rw [haccept, State.acceptRead_of_chip_ne_zero _ _ hchip]
    rfl
  · intro hchip t
    rw [haccept, State.acceptRead_of_chip_eq_zero _ _ hchip]
    rfl

end Sys2Proof.Machine

/-! Proofs about Time Alignment (chapter 3): which pulse a SYNC REPORT belongs to, what the rate and DRIFT_LIMIT come to
when a record is appended, and one equation for each row of the table of 3.3. -/

namespace Sys2Proof.Machine

/-! ## The message at the port -/

theorem exec_syncReport (p : Port) (d : Word32) (s : State) :
    exec (.syncReport p d) s = .next ((s.hearMat p).takeReport p d) := rfl

@[simp] theorem State.hearMat_clock (s : State) (p : Port) : (s.hearMat p).clock = s.clock := by
  unfold State.hearMat
  split <;> rfl

@[simp] theorem State.hearMat_align (s : State) (p : Port) : (s.hearMat p).align = s.align := by
  unfold State.hearMat
  split <;> rfl

@[simp] theorem State.hearMat_registry (s : State) (p : Port) : (s.hearMat p).registry = s.registry := by
  unfold State.hearMat
  split <;> rfl

/-! ## The pulse of a report (R36) -/

/-- A report has no pulse exactly when it is late (R36). -/
theorem State.reportPulse_eq_none_iff (s : State) :
    s.reportPulse = none ↔ s.clock.state = .stopped ∨ s.clock.latestPulse = none ∨
      ∃ t, s.clock.latestPulse = some t ∧ 800 ≤ s.clock.value - t := by
  unfold State.reportPulse State.clockRuns State.now
  cases s.clock.state <;> cases s.clock.latestPulse <;> simp

theorem State.reportPulse_of_window {s : State} {t : Nat} (hrun : s.clock.state = .running)
    (hpulse : s.clock.latestPulse = some t) (hwindow : s.clock.value - t < 800) : s.reportPulse = some t := by
  simp [State.reportPulse, State.clockRuns, State.now, hrun, hpulse, hwindow, Option.filter]

/-! ## The rate of an appended record (R40, R41) -/

/-- The record that joined last is the newest one, so the span runs from the oldest record to it. -/
theorem historyRate_appendRecord (h : List SyncRecord) (r : SyncRecord) :
    historyRate (appendRecord h r) = measuredRate ((appendRecord h r).head?.getD r) r := by
  unfold historyRate appendRecord
  generalize (if h.length < Config.historySize then h else h.tail) = kept
  rw [List.getLast?_concat]
  cases kept <;> rfl

theorem clampRate_ne_self_iff (v : Int) : v ≠ clampRate v ↔ v < -200 ∨ 200 < v := by
  simp only [clampRate, Config.rateLimit]
  omega

/-- DRIFT_LIMIT is raised when a measured rate lies outside the clamp's range (R41). -/
theorem Alignment.drifts_eq (a : Alignment) (r : SyncRecord) :
    a.drifts r = match measuredRate ((appendRecord a.history r).head?.getD r) r with
      | some v => decide (v < -200 ∨ 200 < v)
      | none => false := by
  rw [Alignment.drifts, historyRate_appendRecord]
  cases measuredRate ((appendRecord a.history r).head?.getD r) r with
  | none => rfl
  | some v => simp only [Option.any_some, ← clampRate_ne_self_iff, bne, ne_eq, decide_not, beq_eq_decide]

/-- An appended record gives a measured rate after its clamp, or leaves the rate as it was (R39 to R42). -/
theorem Alignment.append_eq (a : Alignment) (horizon : Nat) (r : SyncRecord) :
    a.append horizon r =
      { history := appendRecord a.history r
        rate := match measuredRate ((appendRecord a.history r).head?.getD r) r with
          | some v => clampRate v
          | none => a.rate
        sync := .synced
        staleDeadline := some (staleDeadlineOf horizon r) } := by
  rw [Alignment.append, historyRate_appendRecord]
  cases measuredRate ((appendRecord a.history r).head?.getD r) r <;> rfl

/-! ## The four rows of 3.3 -/

section
variable {s : State} {p : Port} {t : Nat} {n : SyncRecord} (d : Word32)

theorem State.takeReport_of_late (hlate : s.reportPulse = none) : s.takeReport p d = s.count .syncLate p := by
  simp only [State.takeReport, hlate]

theorem State.takeReport_of_duplicate (hpulse : s.reportPulse = some t) (hn : s.align[p].newest = some n)
    (hdup : n.pulse = t) : s.takeReport p d = s.count .syncLate p := by
  simp only [State.takeReport, hpulse, hn, if_pos hdup]

theorem State.takeReport_of_restart (hpulse : s.reportPulse = some t) (hn : s.align[p].newest = some n)
    (hnew : n.pulse ≠ t) (hback : signedDiff d n.dtime ≤ 0) :
    s.takeReport p d = (s.withAlign p (Alignment.restarted s.registry.limits.staleHorizon ⟨t, d⟩)).count
      .syncAccepted p := by
  simp only [State.takeReport, hpulse, hn, if_neg hnew, if_pos hback]

theorem State.takeReport_of_append (hpulse : s.reportPulse = some t)
    (hnew : ∀ n, s.align[p].newest = some n → n.pulse ≠ t ∧ 0 < signedDiff d n.dtime) :
    s.takeReport p d = ((s.withAlign p (s.align[p].append s.registry.limits.staleHorizon ⟨t, d⟩)).count
      .syncAccepted p).raiseIf (s.align[p].drifts ⟨t, d⟩) .driftLimit := by
  cases hn : s.align[p].newest with
  | none => simp only [State.takeReport, hpulse, hn]
  | some n =>
    obtain ⟨hother, hforward⟩ := hnew n hn
    simp only [State.takeReport, hpulse, hn, if_neg hother, if_neg hforward.not_ge]

end

/-- Settles O21: restarting the silence timer leaves the clock, the alignment and the limits, so the report falls into
the row of 3.3 that the state before it decides; the appended record's alignment and drift mark are those of R40 and
R41. -/
theorem syncReportIsMatched : Obligations.SyncReportIsMatched := by
  unfold Obligations.SyncReportIsMatched
  intro s p d a heard
  have halign : heard.align = s.align := s.hearMat_align p
  have hregistry : heard.registry = s.registry := s.hearMat_registry p
  have hclock : heard.clock = s.clock := s.hearMat_clock p
  refine ⟨fun hlate => ?late, fun t hrun hpulse hwindow => ?inWindow⟩
  case late =>
    have hnone : heard.reportPulse = none := by rwa [State.reportPulse_eq_none_iff, hclock]
    rw [exec_syncReport, State.takeReport_of_late d hnone]
  case inWindow =>
    rw [← hclock] at hrun hpulse hwindow
    have hsome : heard.reportPulse = some t := State.reportPulse_of_window hrun hpulse hwindow
    have hnewest : heard.align[p].newest = a.history.getLast? := by rw [halign]; rfl
    refine ⟨fun n hn hdup => ?duplicate, fun n hn hnew hback => ?restart, fun hnew => ?append⟩
    case duplicate => rw [exec_syncReport, State.takeReport_of_duplicate d hsome (hnewest.trans hn) hdup]
    case restart =>
      rw [exec_syncReport, State.takeReport_of_restart d hsome (hnewest.trans hn) hnew hback, hregistry]
      rfl
    case append =>
      rw [← hnewest] at hnew
      rw [exec_syncReport, State.takeReport_of_append d hsome hnew, halign, hregistry, Alignment.append_eq,
        Alignment.drifts_eq]
      rfl

end Sys2Proof.Machine

/-! Proofs about the Passage Unit (chapter 4): when the race clock has reached a passage's close deadline, which
crossing a closing passage hands on, and what CLOSE_DEADLINE then does. -/

namespace Sys2Proof.Machine

/-! ## The close deadline (R59) -/

/-- A clock held at the greatest race time has reached every saturated time (R4, R59). -/
theorem satTime_le_iff {n v : Nat} (hv : v ≤ Config.maxRaceTime) :
    satTime n ≤ v ↔ n ≤ v ∨ v = Config.maxRaceTime := by
  rw [satTime, min_le_iff, hv.ge_iff_eq]

/-- The close deadline is the earlier of the two sums, each saturated (R59). -/
theorem Passage.deadline_le_iff (x : Passage) (m : Limits) {v : Nat} (hv : v ≤ Config.maxRaceTime) :
    x.deadline m ≤ v ↔
      x.lastTaken + m.dwellGap ≤ v ∨ x.firstTaken + m.maxDwell ≤ v ∨ v = Config.maxRaceTime := by
  rw [Passage.deadline, min_le_iff, satTime_le_iff hv, satTime_le_iff hv, ← or_or_distrib_right, or_assoc]

/-! ## The crossing of a closing passage (R60) -/

/-- The crossing that a passage of port `p` hands on under point `q` and its timing policy (R60). -/
def Passage.crossingUnder (x : Passage) (p : Port) (q : Point) (policy : Policy) : Incoming :=
  { chip := x.chip, point := q, source := p, time := (x.timed policy).1, estimated := (x.timed policy).2 }

section
variable {s : State} {p : Port} {q : Point} {c : CoursePoint} (x : Passage)

theorem crossingOf_of_configured (hpoint : s.registry.ports[p].point = some q)
    (hcourse : s.registry.course[q] = some c) :
    crossingOf s p x = some (x.crossingUnder p q c.policy) := by
  rw [crossingOf, hpoint, Option.bind_eq_bind, Option.bind_some, hcourse]
  rfl

theorem State.closeCrossing_of_configured (hpoint : s.registry.ports[p].point = some q)
    (hcourse : s.registry.course[q] = some c) :
    s.closeCrossing p x = (s.takeCrossing (x.crossingUnder p q c.policy) false).count .passageClosed p := by
  rw [State.closeCrossing, crossingOf_of_configured x hpoint hcourse]

/-- The crossing is the one that the settings before the close select: leaving the list does not change them. -/
theorem State.closePassage_of_configured (hpoint : s.registry.ports[p].point = some q)
    (hcourse : s.registry.course[q] = some c) :
    s.closePassage p x = ((s.withPassages p (dropChip x.chip s.passage.lists[p])).takeCrossing
      (x.crossingUnder p q c.policy) false).count .passageClosed p := by
  rw [State.closePassage, State.closeCrossing_of_configured]
  · rwa [State.withPassages_registry]
  · rwa [State.withPassages_registry]

end

/-! ## CLOSE_DEADLINE -/

theorem exec_closeDeadline (p : Port) (chip : Word32) (s : State) :
    exec (.closeDeadline p chip) s = execCloseDeadline p chip s := rfl

theorem execCloseDeadline_of_reached {s : State} {p : Port} {chip : Word32} {x : Passage}
    (hopen : s.passageOf p chip = some x) (hrun : s.clock.state = .running)
    (hreached : x.deadline s.registry.limits ≤ s.clock.value) :
    execCloseDeadline p chip s = .next (s.closePassage p x) := by
  simp [execCloseDeadline, hopen, State.clockRuns, State.now, hrun, hreached]

/-- Settles O25: the three ways to reach the deadline are those of `Passage.deadline_le_iff`, so the passage closes; the
policy of the port's point then selects the first or the peak time of its crossing (R60). -/
theorem closeDeadlineHandsOnCrossing : Obligations.CloseDeadlineHandsOnCrossing := by
  unfold Obligations.CloseDeadlineHandsOnCrossing
  intro s p x q c hrun hopen hsum hmax hpoint hcourse
  have hreached : x.deadline s.registry.limits ≤ s.clock.value := (x.deadline_le_iff _ hmax).mpr hsum
  have hclose : exec (.closeDeadline p x.chip) s =
      .next (((s.withPassages p (dropChip x.chip s.passage.lists[p])).takeCrossing
        (x.crossingUnder p q c.policy) false).count .passageClosed p) := by
    rw [exec_closeDeadline, execCloseDeadline_of_reached hopen hrun hreached,
      State.closePassage_of_configured x hpoint hcourse]
  constructor
  · intro hfirst
    rw [hclose, hfirst]
    rfl
  · intro hpeak
    rw [hclose, hpeak]
    rfl

end Sys2Proof.Machine

/-! Proofs about the plausibility checks (6.3): what the two searches for a neighbouring crossing find, when each of the
three tests holds, and which reason a check run comes to. -/

namespace Sys2Proof.Machine

/-! ## The usable crossings (R88) -/

theorem usable_eq_some {cs : Crossings} {q : Point} {c : Crossing} :
    usable cs q = some c ↔ cs[q] = some c ∧ c.suspect = none := by
  rw [usable, Option.filter_eq_some_iff, Option.isNone_iff_eq_none]

theorem usable_eq_none {cs : Crossings} {q : Point} :
    usable cs q = none ↔ ∀ c, cs[q] = some c → c.suspect.isSome = true := by
  simp only [usable, Option.filter_eq_none_iff, Option.isNone_iff_eq_none, Option.isSome_iff_ne_none, ne_eq]

/-! ## The nearest crossings (R95) -/

/-- A search along points in the strict order `R` finds the usable crossing that no other one precedes. -/
theorem findSome?_usable_eq_some {R : Point → Point → Prop} [Std.Asymm R] {points : List Point}
    (hsorted : points.Pairwise R) {cs : Crossings} {q : Point} {c : Crossing} :
    (points.findSome? fun x => (usable cs x).map fun c => (x, c)) = some (q, c) ↔
      q ∈ points ∧ usable cs q = some c ∧ ∀ x ∈ points, R x q → usable cs x = none := by
  rw [List.findSome?_eq_some_iff]
  constructor
  · rintro ⟨front, x, back, rfl, hfound, hfront⟩
    obtain ⟨d, hd, ⟨⟩⟩ := Option.map_eq_some_iff.mp hfound
    refine ⟨by simp, hd, fun y hy hyq => ?_⟩
    rcases List.mem_append.mp hy with hy | hy
    · exact Option.map_eq_none_iff.mp (hfront y hy)
    · rcases List.mem_cons.mp hy with rfl | hy
      · exact absurd hyq (Std.Asymm.asymm _ _ hyq)
      · have hqy : R q y := List.rel_of_pairwise_cons (List.pairwise_append.mp hsorted).2.1 hy
        exact absurd hyq (Std.Asymm.asymm _ _ hqy)
  · rintro ⟨hmem, husable, hbefore⟩
    obtain ⟨front, back, rfl⟩ := List.append_of_mem hmem
    refine ⟨front, q, back, rfl, by rw [husable, Option.map_some], fun y hy => ?_⟩
    have hyq : R y q := (List.pairwise_append.mp hsorted).2.2 y hy q List.mem_cons_self
    rw [hbefore y (List.mem_append_left _ hy) hyq, Option.map_none]

theorem nearestLower_eq_some {cs : Crossings} {p q : Point} {c : Crossing} :
    nearestLower cs p = some (q, c) ↔ q < p ∧ cs[q] = some c ∧ c.suspect = none ∧
      ∀ q' : Point, q < q' → q' < p → ∀ c', cs[q'] = some c' → c'.suspect.isSome = true := by
  have hfalling : ((List.finRange 10).reverse.filter fun x => x < p).Pairwise (· > ·) :=
    (List.pairwise_reverse.mpr (List.pairwise_lt_finRange 10)).filter _
  rw [nearestLower, findSome?_usable_eq_some hfalling, usable_eq_some, and_assoc]
  simp only [List.mem_filter, List.mem_reverse, List.mem_finRange, true_and, decide_eq_true_eq, usable_eq_none]
  -- The search asks for `q' < p` (it stays below `p`) before `q < q'` (it came by `q'` first).
  exact and_congr_right' (and_congr_right' (and_congr_right' (forall_congr' fun _ => forall_comm)))

theorem nearestHigher_eq_some {cs : Crossings} {p q : Point} {c : Crossing} :
    nearestHigher cs p = some (q, c) ↔ p < q ∧ cs[q] = some c ∧ c.suspect = none ∧
      ∀ q' : Point, p < q' → q' < q → ∀ c', cs[q'] = some c' → c'.suspect.isSome = true := by
  have hrising : ((List.finRange 10).filter fun x => p < x).Pairwise (· < ·) :=
    (List.pairwise_lt_finRange 10).filter _
  rw [nearestHigher, findSome?_usable_eq_some hrising, usable_eq_some, and_assoc]
  simp only [List.mem_filter, List.mem_finRange, true_and, decide_eq_true_eq, usable_eq_none]

/-! ## The three tests (R95) -/

section
variable {s : State} {r : Runner} {p : Point} {t : Nat}

theorem earlyHolds_iff : earlyHolds s r t = true ↔ ∀ g, s.clock.guns[r.wave] = some g → t < g := by
  unfold earlyHolds
  cases s.clock.guns[r.wave] <;> simp

theorem earlyHolds_eq_false_iff : earlyHolds s r t = false ↔ ∃ g, s.clock.guns[r.wave] = some g ∧ g ≤ t := by
  simp only [← Bool.not_eq_true, earlyHolds_iff, not_forall, not_lt, exists_prop]

theorem orderHolds_iff : orderHolds r p t = true ↔
    (∃ q c, nearestLower r.crossings p = some (q, c) ∧ t ≤ c.time) ∨
      (∃ q c, nearestHigher r.crossings p = some (q, c) ∧ c.time ≤ t) := by
  simp only [orderHolds, Bool.or_eq_true, Option.any_eq_true, Prod.exists, decide_eq_true_eq]

theorem orderHolds_eq_false_iff : orderHolds r p t = false ↔
    (∀ q c, nearestLower r.crossings p = some (q, c) → c.time < t) ∧
      (∀ q c, nearestHigher r.crossings p = some (q, c) → t < c.time) := by
  simp only [← Bool.not_eq_true, orderHolds_iff, not_or, not_exists, not_and, not_le]

theorem fastHolds_iff : fastHolds s r p t = true ↔
    ∃ q c x y, nearestLower r.crossings p = some (q, c) ∧ s.registry.course[p] = some x ∧
      s.registry.course[q] = some y ∧ t < c.time + (x.distance - y.distance) * s.registry.limits.minPace := by
  unfold fastHolds
  cases nearestLower r.crossings p with
  | none => simp
  | some lower =>
    obtain ⟨q, c⟩ := lower
    cases s.registry.course[p] with
    | none => simp
    | some x => cases hq : s.registry.course[q] <;> simp [hq, -Fin.getElem_fin]

/-! ## The reason of a check run (R96) -/

theorem checkReason_eq_early_iff : checkReason s r p t = some .early ↔ earlyHolds s r t = true := by
  unfold checkReason
  split_ifs with hearly horder hfast <;> simp [*]

theorem checkReason_eq_order_iff :
    checkReason s r p t = some .order ↔ earlyHolds s r t = false ∧ orderHolds r p t = true := by
  unfold checkReason
  split_ifs with hearly horder hfast <;> simp [*]

theorem checkReason_eq_fast_iff : checkReason s r p t = some .fast ↔
    earlyHolds s r t = false ∧ orderHolds r p t = false ∧ fastHolds s r p t = true := by
  unfold checkReason
  split_ifs with hearly horder hfast <;> simp [*]

end

/-- Settles O27: a reason is found when its own test holds and those before it in the order of R96 fail, and each test
and each search for a neighbour says what R95 says of it. -/
theorem checksFindHighestReason : Obligations.ChecksFindHighestReason := by
  unfold Obligations.ChecksFindHighestReason
  intro s r p t
  refine ⟨?early, ?order, ?fast, fun q c => nearestLower_eq_some, fun q c => nearestHigher_eq_some⟩
  case early => rw [checkReason_eq_early_iff, earlyHolds_iff]
  case order => rw [checkReason_eq_order_iff, earlyHolds_eq_false_iff, orderHolds_iff]
  case fast =>
    rw [checkReason_eq_fast_iff, earlyHolds_eq_false_iff, orderHolds_eq_false_iff, fastHolds_iff, and_assoc]

end Sys2Proof.Machine

/-! Proofs about the correction commands (6.6): the checks that they share, what each of the three that correct one
crossing comes to once they have passed, and the command as a whole. -/

namespace Sys2Proof.Machine

/-! ## Taking an editing command -/

/-- A token command on a link that may edit is handled in the state that has heard it (R161, R162). -/
theorem takeCommand_of_mayEdit {s : State} {l : Side} (h : s.mayEdit l) (tag : Byte) (handle : State → Verdict) :
    takeCommand l tag true handle s = .next ((s.hearControl l).conclude l tag (handle (s.hearControl l))) := by
  obtain ⟨⟨⟨hstarted, hidle⟩, htoken⟩, -⟩ := h
  exact takeCommand_taken hstarted hidle fun _ => beq_iff_eq.mpr htoken

theorem exec_amend {s : State} {l : Side} (h : s.mayEdit l) (tag : Byte) (bib : Half) (point : Byte) (time : Word32) :
    exec (.amend l tag bib point time) s =
      .next ((s.hearControl l).conclude l tag (amendCrossing bib point time (s.hearControl l))) :=
  takeCommand_of_mayEdit h tag _

theorem exec_amendClear {s : State} {l : Side} (h : s.mayEdit l) (tag : Byte) (bib : Half) (point : Byte) :
    exec (.amendClear l tag bib point) s =
      .next ((s.hearControl l).conclude l tag (clearCrossing bib point (s.hearControl l))) :=
  takeCommand_of_mayEdit h tag _

theorem exec_accept {s : State} {l : Side} (h : s.mayEdit l) (tag : Byte) (bib : Half) (point : Byte) :
    exec (.accept l tag bib point) s =
      .next ((s.hearControl l).conclude l tag (acceptCrossing bib point (s.hearControl l))) :=
  takeCommand_of_mayEdit h tag _

/-! ## Setting a crossing with its place (R97) -/

/-- The state after a crossing of runner `r` at `p` is set, with a place taken when it has none (R97, R98). -/
def State.setPlaced (s : State) (r : Runner) (p : Point) (c : Crossing) : State :=
  (s.takePlace p c).1.writeCrossing r p (some (s.takePlace p c).2)

theorem State.setPlaced_eq (s : State) (r : Runner) (p : Point) (c : Crossing) :
    s.setPlaced r p c =
      ({ s with registry := { s.registry with
          counters := if c.place.isSome then s.registry.counters
            else s.registry.counters.set p (nextPlace s.registry.counters[p]) } }).putRunner
        ((r.withCrossing p (some { c with place := some (c.place.getD (nextPlace s.registry.counters[p])) })).derived
          s.registry.course) := by
  rw [State.setPlaced, State.takePlace_eq]
  rfl

/-! ## The checks on the bib and the point (R102) -/

section
variable {s : State} {bib : Half} (hready : s.registry.state = .ready)
include hready

theorem State.unlessResetting_of_ready (v : Verdict) : s.unlessResetting v = v := by
  simp [State.unlessResetting, State.resetting, hready]

theorem State.correct_of_out_of_range {inRange : Bool} (hout : bib = 0 ∨ inRange = false) (k : Runner → Verdict) :
    s.correct bib inRange k = .refuse .range := by
  rw [State.correct, State.unlessResetting_of_ready hready, if_pos (by simpa using hout)]

theorem State.correct_of_unknown (hbib : bib ≠ 0) (hnone : s.runner bib = none) (k : Runner → Verdict) :
    s.correct bib true k = .refuse .unknown := by
  rw [State.correct, State.unlessResetting_of_ready hready, if_neg (by simpa using hbib), hnone]

theorem State.correct_of_found {r : Runner} (hbib : bib ≠ 0) (hfound : s.runner bib = some r)
    (k : Runner → Verdict) : s.correct bib true k = k r := by
  rw [State.correct, State.unlessResetting_of_ready hready, if_neg (by simpa using hbib), hfound]

variable {point : Byte} (k : Runner → Point → Verdict)

theorem State.correctAt_of_out_of_range (hout : bib = 0 ∨ 9 < point.toNat) :
    s.correctAt bib point k = .refuse .range := by
  unfold State.correctAt
  cases hpoint : pointOf point with
  | none => exact State.correct_of_out_of_range hready (.inr rfl) _
  | some p =>
    have hsmall : ¬ 9 < point.toNat := fun hbig => by simp [pointOf, indexOf_none hbig] at hpoint
    exact State.correct_of_out_of_range hready (.inl (hout.resolve_right hsmall)) _

theorem State.correctAt_of_unknown (hbib : bib ≠ 0) (hpoint : point.toNat ≤ 9) (hnone : s.runner bib = none) :
    s.correctAt bib point k = .refuse .unknown := by
  have hp : pointOf point = some ⟨point.toNat, Nat.lt_succ_of_le hpoint⟩ := indexOf_some rfl
  rw [State.correctAt, hp]
  exact State.correct_of_unknown hready hbib hnone _

end

/-- The state passes every check of R102 on a correction command: `bib` leads to runner `r`, and `point` to point
`p`. -/
structure State.Corrects (s : State) (bib : Half) (point : Byte) (r : Runner) (p : Point) : Prop where
  ready : s.registry.state = .ready
  bib_ne_zero : bib ≠ 0
  point_eq : point.toNat = p.val
  runner : s.runner bib = some r

section
variable {s : State} {bib : Half} {point : Byte} {r : Runner} {p : Point} {c : Crossing}

/-- Hearing the command does not touch what its checks read. -/
theorem State.Corrects.hearControl (h : s.Corrects bib point r p) (l : Side) :
    (s.hearControl l).Corrects bib point r p :=
  ⟨h.ready, h.bib_ne_zero, h.point_eq, h.runner⟩

theorem State.Corrects.correctAt_eq (h : s.Corrects bib point r p) (k : Runner → Point → Verdict) :
    s.correctAt bib point k = k r p := by
  have hp : pointOf point = some p := indexOf_some h.point_eq
  rw [State.correctAt, hp]
  exact State.correct_of_found h.ready h.bib_ne_zero h.runner _

/-! ## AMEND (R103) -/

theorem amendCrossing_of_unconfigured (h : s.Corrects bib point r p) (time : Word32)
    (hpoint : s.registry.course[p] = none) : amendCrossing bib point time s = .refuse .state := by
  rw [amendCrossing, h.correctAt_eq, hpoint]
  rfl

theorem amendCrossing_of_future (h : s.Corrects bib point r p) {time : Word32}
    (hpoint : s.registry.course[p].isSome = true) (hfuture : s.clock.value < time.toNat) :
    amendCrossing bib point time s = .refuse .range := by
  rw [amendCrossing, h.correctAt_eq, if_neg (mt Option.isNone_iff_eq_none.mp (Option.isSome_iff_ne_none.mp hpoint))]
  exact if_pos hfuture

theorem amendCrossing_of_past (h : s.Corrects bib point r p) {time : Word32}
    (hpoint : s.registry.course[p].isSome = true) (hpast : time.toNat ≤ s.clock.value) :
    amendCrossing bib point time s = .ok (s.setPlaced r p (amended time.toNat r.crossings[p])) := by
  rw [amendCrossing, h.correctAt_eq, if_neg (mt Option.isNone_iff_eq_none.mp (Option.isSome_iff_ne_none.mp hpoint))]
  exact if_neg hpast.not_gt

/-! ## AMEND with CLEAR (R104) -/

theorem clearCrossing_of_none (h : s.Corrects bib point r p) (hnone : r.crossings[p] = none) :
    clearCrossing bib point s = .refuse .state := by
  rw [clearCrossing, h.correctAt_eq, hnone]
  rfl

theorem clearCrossing_of_some (h : s.Corrects bib point r p) (hsome : r.crossings[p] = some c) :
    clearCrossing bib point s = .ok (s.writeCrossing r p none) := by
  rw [clearCrossing, h.correctAt_eq, hsome]
  rfl

/-! ## ACCEPT (R105) -/

theorem acceptCrossing_of_none (h : s.Corrects bib point r p) (hnone : r.crossings[p] = none) :
    acceptCrossing bib point s = .refuse .state := by
  rw [acceptCrossing, h.correctAt_eq, hnone]

theorem acceptCrossing_of_clean (h : s.Corrects bib point r p) (hsome : r.crossings[p] = some c)
    (hclean : c.suspect = none) : acceptCrossing bib point s = .refuse .state := by
  rw [acceptCrossing, h.correctAt_eq, hsome]
  exact if_pos (Option.isNone_iff_eq_none.mpr hclean)

theorem acceptCrossing_of_suspect (h : s.Corrects bib point r p) (hsome : r.crossings[p] = some c)
    (hsuspect : c.suspect.isSome = true) :
    acceptCrossing bib point s = .ok (s.setPlaced r p { c with suspect := none }) := by
  rw [acceptCrossing, h.correctAt_eq, hsome]
  exact if_neg (mt Option.isNone_iff_eq_none.mp (Option.isSome_iff_ne_none.mp hsuspect))

end

/-- Settles O47: the command is handled in the state that has heard it, whose registry and clock are as before; there
the checks of R102 refuse it, or one branch of R103, R104 or R105 answers, where `setPlaced` says what an accepted
crossing's place and counter come to. -/
theorem amendClearAndAccept : Obligations.AmendClearAndAccept := by
  unfold Obligations.AmendClearAndAccept
  intro s l tag bib point time h
  have hready : (s.hearControl l).registry.state = .ready := h.2
  rw [exec_amend h, exec_amendClear h, exec_accept h]
  refine ⟨fun hout => ?outOfRange, fun hbib hpoint hnone => ?unknown, fun r p hbib hpoint hfound => ?found⟩
  case outOfRange =>
    simp only [amendCrossing, clearCrossing, acceptCrossing, State.correctAt_of_out_of_range hready _ hout]
    exact ⟨rfl, rfl, rfl⟩
  case unknown =>
    simp only [amendCrossing, clearCrossing, acceptCrossing, State.correctAt_of_unknown hready _ hbib hpoint hnone]
    exact ⟨rfl, rfl, rfl⟩
  case found =>
    have hc : (s.hearControl l).Corrects bib point r p := State.Corrects.hearControl ⟨h.2, hbib, hpoint, hfound⟩ l
    refine ⟨fun hcourse => ?unconfigured, fun hcourse hfuture => ?future, fun hcourse hpast => ?past,
      fun hnone => ?noCrossing, fun c hsome => ⟨?clear, fun hclean => ?clean, fun hsuspect => ?suspect⟩⟩
    case unconfigured => rw [amendCrossing_of_unconfigured hc time hcourse]; rfl
    case future => rw [amendCrossing_of_future hc hcourse hfuture]; rfl
    case past => rw [amendCrossing_of_past hc hcourse hpast, State.setPlaced_eq]; rfl
    case noCrossing => rw [clearCrossing_of_none hc hnone, acceptCrossing_of_none hc hnone]; exact ⟨rfl, rfl⟩
    case clear => rw [clearCrossing_of_some hc hsome]; rfl
    case clean => rw [acceptCrossing_of_clean hc hsome hclean]; rfl
    case suspect => rw [acceptCrossing_of_suspect hc hsome hsuspect, State.setPlaced_eq]; rfl

end Sys2Proof.Machine

/-! Proofs about parking a crossing (8.2): which of two crossings at a point is kept, which entry a full list loses, the
three cases of the Park List, and the crossing of an unknown chip as a whole. -/

namespace Sys2Proof.Machine

section

variable {s : State} {chip : Word32} {p : Point} {new : ParkedCrossing}

/-! ## Merging into an entry (R127) -/

theorem parkedBetter_iff (old new : ParkedCrossing) : parkedBetter old new = true ↔
    (old.estimated = true ∧ new.estimated = false) ∨ (old.estimated = new.estimated ∧ new.time < old.time) := by
  simp [parkedBetter]

theorem mergeParked_some (new old : ParkedCrossing) : mergeParked new (some old) =
    if (old.estimated = true ∧ new.estimated = false) ∨ (old.estimated = new.estimated ∧ new.time < old.time)
    then new else old := by
  simp only [mergeParked, parkedBetter_iff]

/-! ## The entry of the oldest last-update (R129) -/

theorem oldestUpdate_eq_min? (l : List ParkEntry) : oldestUpdate l = (l.map ParkEntry.lastUpdate).min? := by
  induction l with
  | nil => rfl
  | cons e rest ih =>
    rw [oldestUpdate, ih, List.map_cons, List.min?_cons]
    cases (rest.map ParkEntry.lastUpdate).min? <;> rfl

theorem oldestUpdate_eq_some_iff {t : Nat} : oldestUpdate l = some t ↔
    (∃ e ∈ l, e.lastUpdate = t) ∧ ∀ e ∈ l, t ≤ e.lastUpdate := by
  rw [oldestUpdate_eq_min?, List.min?_eq_some_iff, List.mem_map, List.forall_mem_map]

theorem displaceOldest_append_cons {front back : List ParkEntry} {e : ParkEntry}
    (hfront : ∀ f ∈ front, e.lastUpdate < f.lastUpdate) (hback : ∀ f ∈ back, e.lastUpdate ≤ f.lastUpdate) :
    displaceOldest (front ++ e :: back) = front ++ back := by
  have hold : oldestUpdate (front ++ e :: back) = some e.lastUpdate := by
    refine oldestUpdate_eq_some_iff.mpr ⟨⟨e, by simp, rfl⟩, fun f hf => ?_⟩
    rcases List.mem_append.mp hf with hf | hf
    · exact (hfront f hf).le
    · rcases List.mem_cons.mp hf with rfl | hf
      · exact le_rfl
      · exact hback f hf
  have hkept : ∀ f ∈ front, ¬ (some f.lastUpdate == some e.lastUpdate) = true := fun f hf heq =>
    (hfront f hf).ne' (Option.some.inj (beq_iff_eq.mp heq))
  rw [displaceOldest, hold, List.eraseP_append_right _ hkept, List.eraseP_cons_of_pos (by simp)]

/-! ## The three cases of the Park List (R127, R128, R129) -/

theorem State.parked_isSome_iff : (s.parked chip).isSome = true ↔ ∃ e ∈ s.park, e.chip = chip := by
  simp [State.parked]

theorem State.not_parked_of_forall_ne (h : ∀ e ∈ s.park, e.chip ≠ chip) : ¬ (s.parked chip).isSome = true := fun hp =>
  let ⟨e, he, hchip⟩ := State.parked_isSome_iff.mp hp
  h e he hchip

theorem State.parkCrossing_of_parked (h : ∃ e ∈ s.park, e.chip = chip) : s.parkCrossing chip p new =
    s.withPark (s.park.map fun e => if e.chip = chip then e.merge p s.now new else e) := by
  simp only [State.parkCrossing, if_pos (State.parked_isSome_iff.mpr h), beq_iff_eq]

theorem State.parkCrossing_of_room (h : ∀ e ∈ s.park, e.chip ≠ chip) (hroom : s.park.length < Config.parkListSize) :
    s.parkCrossing chip p new =
      ((s.withPark (s.park ++ [ParkEntry.make chip p s.now new])).count .chipParked p).raise .unknownChip := by
  rw [State.parkCrossing, if_neg (State.not_parked_of_forall_ne h), if_pos hroom]

theorem State.parkCrossing_of_full (h : ∀ e ∈ s.park, e.chip ≠ chip) (hfull : Config.parkListSize ≤ s.park.length) :
    s.parkCrossing chip p new =
      ((((s.withPark (displaceOldest s.park ++ [ParkEntry.make chip p s.now new])).count .parkDropped p).count
        .chipParked p).raise .parkFull).raise .unknownChip := by
  rw [State.parkCrossing, if_neg (State.not_parked_of_forall_ne h), if_neg hfull.not_gt]

theorem State.takeCrossing_of_unknown {i : Incoming} (h : s.bibOf i.chip = none) (replayed : Bool) :
    s.takeCrossing i replayed =
      s.parkCrossing i.chip i.point { time := i.time, source := i.source, estimated := i.estimated } := by
  rw [State.takeCrossing, h]

end

/-- Settles O29: the crossing of an unknown chip goes to the Park List, which takes one of its three branches; a merge
keeps the better of two crossings, and of a full list the split at the oldest last-update says which entry goes. -/
theorem unknownChipIsParked : Obligations.UnknownChipIsParked := by
  unfold Obligations.UnknownChipIsParked
  intro s i b hunknown x fresh
  rw [State.takeCrossing_of_unknown hunknown]
  refine ⟨fun hparked => ?merged, fun hnew hroom => ?appended,
    fun hnew hfull front e back hsplit hfront hback => ?displaced⟩
  case merged =>
    rw [State.parkCrossing_of_parked hparked, State.withPark]
    congr 2
    funext e
    rw [ParkEntry.merge]
    cases hat : e.crossings[i.point] with
    | none => rfl
    | some old => rw [mergeParked_some]; rfl
  case appended =>
    rw [State.parkCrossing_of_room hnew hroom]
    rfl
  case displaced =>
    rw [State.parkCrossing_of_full hnew hfull, hsplit, displaceOldest_append_cons hfront hback]
    rfl

end Sys2Proof.Machine

/-! Proofs about the screen link (9.5): the state in which a FRAME REQUEST is handled after the one held before it was
answered, and one equation for each of the answers that R152 gives. -/

namespace Sys2Proof.Machine

/-! ## Writing a screen -/

/-- Of two writes of one screen the later one stands. -/
theorem State.withScreen_withScreen (s : State) (k : ScreenNo) (x y : Screen) :
    (s.withScreen k x).withScreen k y = s.withScreen k y := by
  simp [State.withScreen]

theorem State.withScreen_self (s : State) (k : ScreenNo) : s.withScreen k s.screens[k] = s := by
  simp [State.withScreen]

/-! ## The request held before (R152 step 1) -/

/-- What was sent once a request held by screen `k` is answered with UNCHANGED (R152 step 1). -/
def State.sentToHeld (s : State) (k : ScreenNo) : List Sent :=
  if s.screens[k].held.isSome then s.sent ++ [s.screens[k].unchanged k] else s.sent

/-- Whether or not a request was held, none is held afterwards; only an UNCHANGED tells the two apart. -/
theorem State.answerHeld_eq (s : State) (k : ScreenNo) :
    s.answerHeld k = { s.withScreen k { s.screens[k] with held := none } with sent := s.sentToHeld k } := by
  cases hheld : s.screens[k].held with
  | some _ =>
    simp only [State.answerHeld, State.sentToHeld, hheld, Option.isSome_some, if_true]
    rfl
  | none =>
    have hsame : { s.screens[k] with held := none } = s.screens[k] := by rw [← hheld]
    simp only [State.answerHeld, State.sentToHeld, hheld, hsame, State.withScreen_self, Option.isSome_none,
      Bool.false_eq_true, if_false]

/-! ## The request is heard -/

/-- The screen after a request at the elapsed time `e` restarted its silence timer and the request held before was
answered (R151, R152). -/
def Screen.heardAt (x : Screen) (e : Nat) : Screen := { x with timer := some (e + Config.screenSilence), held := none }

/-- The state in which a FRAME REQUEST on an UP link is handled: it was heard, and the one held before is answered. -/
def State.hearRequest (s : State) (k : ScreenNo) : State :=
  { s.withScreen k (s.screens[k].heardAt s.elapsed) with sent := s.sentToHeld k }

theorem State.hearRequest_screen (s : State) (k : ScreenNo) :
    (s.hearRequest k).screens[k] = s.screens[k].heardAt s.elapsed := s.withScreen_same k _

theorem State.hearRequest_withScreen (s : State) (k : ScreenNo) (x : Screen) :
    (s.hearRequest k).withScreen k x = { s.withScreen k x with sent := s.sentToHeld k } :=
  congrArg (fun t : State => { t with sent := s.sentToHeld k }) (s.withScreen_withScreen k _ x)

theorem State.answerHeld_withTimer (s : State) (k : ScreenNo) :
    (s.withScreen k { s.screens[k] with timer := some (s.elapsed + Config.screenSilence) }).answerHeld k =
      s.hearRequest k := by
  simp only [State.answerHeld_eq, State.sentToHeld, State.withScreen_same, State.withScreen_withScreen]
  rfl

/-! ## FRAME_REQUEST: the link -/

theorem exec_frameRequest (k : ScreenNo) (last : Half) (wait : Bool) (s : State) :
    exec (.frameRequest k last wait) s = execFrameRequest k last wait s := rfl

theorem execFrameRequest_of_down {s : State} {k : ScreenNo} (last : Half) (wait : Bool)
    (hdown : s.screens[k].link = .down) : execFrameRequest k last wait s = .next s := by
  simp only [execFrameRequest, hdown, beq_self_eq_true, Bool.or_true, if_true]

theorem execFrameRequest_of_up {s : State} {k : ScreenNo} (last : Half) (wait : Bool) (hstart : s.startUp = false)
    (hup : s.screens[k].link = .up) :
    execFrameRequest k last wait s = .next ((s.hearRequest k).answerRequest k last wait) := by
  rw [← State.answerHeld_withTimer, execFrameRequest, hstart, hup]
  rfl

/-! ## FRAME_REQUEST: the answer (R152 steps 2 to 5) -/

section
variable {s : State} {k : ScreenNo} {x : Screen} {last : Half} {wait : Bool}

theorem State.answerRequest_of_fresh (hx : s.screens[k] = x) (hfresh : x.session = .fresh) :
    s.answerRequest k last wait = (s.withScreen k { x with session := .answered }).transmit (x.frame k) := by
  subst hx
  simp only [State.answerRequest, hfresh, if_true]

theorem State.answerRequest_of_other_seq (hx : s.screens[k] = x) (hanswered : x.session = .answered)
    (hseq : last ≠ x.seq) : s.answerRequest k last wait = s.transmit (x.frame k) := by
  simp [State.answerRequest, hx, hanswered, hseq, -Fin.getElem_fin]

theorem State.answerRequest_of_no_wait (hx : s.screens[k] = x) (hanswered : x.session = .answered)
    (hseq : last = x.seq) (hwait : wait = false ∨ x.profile.pollHold = 0) :
    s.answerRequest k last wait = s.transmit (x.unchanged k) := by
  simp [State.answerRequest, hx, hanswered, hseq, hwait, -Fin.getElem_fin]

theorem State.answerRequest_of_wait (hx : s.screens[k] = x) (hanswered : x.session = .answered)
    (hseq : last = x.seq) (hwait : wait = true) (hhold : x.profile.pollHold ≠ 0) :
    s.answerRequest k last wait =
      s.withScreen k { x with held := some { last, deadline := s.elapsed + x.profile.pollHold } } := by
  simp [State.answerRequest, hx, hanswered, hseq, hwait, hhold, -Fin.getElem_fin]

end

/-- Settles O34: on an UP link the request is answered in the state that has heard it, whose screen differs from the one
before only in its timer and its held request, so the session, the sequence and the wait flag choose the same answer. -/
theorem frameRequestIsAnswered : Obligations.FrameRequestIsAnswered := by
  unfold Obligations.FrameRequestIsAnswered
  intro s k last wait hstart x heard first frame
  have hscreen : (s.hearRequest k).screens[k] = heard := s.hearRequest_screen k
  have hexec (hup : x.link = .up) :
      exec (.frameRequest k last wait) s = .next ((s.hearRequest k).answerRequest k last wait) := by
    rw [exec_frameRequest, execFrameRequest_of_up _ _ hstart hup]
  refine ⟨fun hdown => ?down, fun hup hfresh => ?fresh, fun hup hanswered hseq => ?otherSeq,
    fun hup hanswered hseq hwait => ?noWait, fun hup hanswered hseq hwait hhold => ?held⟩
  case down => rw [exec_frameRequest, execFrameRequest_of_down _ _ hdown]
  case fresh =>
    rw [hexec hup, State.answerRequest_of_fresh hscreen hfresh, State.hearRequest_withScreen]
    rfl
  case otherSeq =>
    rw [hexec hup, State.answerRequest_of_other_seq hscreen hanswered hseq]
    rfl
  case noWait =>
    rw [hexec hup, State.answerRequest_of_no_wait hscreen hanswered hseq hwait]
    rfl
  case held =>
    rw [hexec hup, State.answerRequest_of_wait hscreen hanswered hseq hwait hhold, State.hearRequest_withScreen]
    rfl

end Sys2Proof.Machine

/-! Proofs about the control token (10.2): what hearing a command and going DOWN leave of the token, one equation for
each branch of the token operations, and the four token commands and the silence of a control link as a whole. -/

namespace Sys2Proof.Machine

/-! ## What the token operations read -/

theorem State.holds_iff {s : State} {l : Side} : s.holds l = true ↔ s.control.token = .held l := beq_iff_eq

theorem State.hearControl_token (s : State) (l : Side) : (s.hearControl l).control.token = s.control.token := by
  simp [State.hearControl_eq]

theorem State.hearControl_claim (s : State) (l : Side) : (s.hearControl l).control.claim = s.control.claim := by
  simp [State.hearControl_eq]

theorem State.hearControl_controlLink_other (s : State) (l : Side) :
    (s.hearControl l).controlLink l.other = s.controlLink l.other :=
  s.controlLink_withLink_other _ l.other_ne

theorem Token.ne_held_of_other {l : Side} {t : Token} (h : t = .held l.other) : t ≠ .held l := by
  rw [h]
  exact fun heq => l.other_ne (Token.held.inj heq)

/-! ## Taking a token command -/

section
variable {s : State} {l : Side} (h : s.ready l) (tag : Byte)
include h

/-- An open command on a ready link is handled in the state that has heard it (R161, R162). -/
theorem takeCommand_of_ready (handle : State → Verdict) :
    takeCommand l tag false handle s = .next ((s.hearControl l).conclude l tag (handle (s.hearControl l))) :=
  takeCommand_taken h.1 h.2 nofun

theorem exec_claim : exec (.claim l tag) s =
    .next ((s.hearControl l).conclude l tag (claimToken l (s.hearControl l))) := takeCommand_of_ready h tag _

theorem exec_seize : exec (.seize l tag) s =
    .next ((s.hearControl l).conclude l tag (seizeToken l (s.hearControl l))) := takeCommand_of_ready h tag _

theorem exec_release : exec (.release l tag) s =
    .next ((s.hearControl l).conclude l tag (releaseToken l (s.hearControl l))) := takeCommand_of_ready h tag _

theorem exec_pass : exec (.pass l tag) s =
    .next ((s.hearControl l).conclude l tag (passToken l (s.hearControl l))) := takeCommand_of_ready h tag _

end

section
variable {s : State} {l : Side}

/-! ## The token its holder gives up (R165, R167) -/

theorem State.giveUpToken_of_claim (hclaim : s.control.claim = some l.other) :
    s.giveUpToken l = (s.withToken (.held l.other) none).raiseTo l.other .tokenGranted := if_pos hclaim

theorem State.giveUpToken_of_no_claim (hclaim : s.control.claim ≠ some l.other) :
    s.giveUpToken l = s.withToken .free s.control.claim := if_neg hclaim

/-! ## CLAIM (R163) -/

theorem claimToken_of_free (hfree : s.control.token = .free) :
    claimToken l s = .ok (s.withToken (.held l) s.control.claim) := if_pos hfree

theorem claimToken_of_holder (hheld : s.control.token = .held l) : claimToken l s = .ok s := by
  rw [claimToken, if_neg (by rw [hheld]; nofun), if_pos (State.holds_iff.mpr hheld)]

theorem claimToken_of_other (hother : s.control.token = .held l.other) : claimToken l s =
    .answer .pending .nothing ((s.withToken s.control.token (some l)).raiseTo l.other .claimPending) := by
  rw [claimToken, if_neg (by rw [hother]; nofun), if_neg (mt State.holds_iff.mp (Token.ne_held_of_other hother))]

/-! ## SEIZE (R164) -/

theorem seizeToken_b : seizeToken .b s = .refuse .notPermitted := rfl

theorem seizeToken_of_free (hfree : s.control.token = .free) :
    seizeToken .a s = .ok (s.withToken (.held .a) s.control.claim) := by
  simp only [seizeToken, hfree]

theorem seizeToken_of_holder (hheld : s.control.token = .held .a) : seizeToken .a s = .ok s := by
  simp only [seizeToken, hheld]

theorem seizeToken_of_other (hother : s.control.token = .held .b) : seizeToken .a s =
    .ok ((s.withToken (.held .a) (if s.control.claim = some .a then none else s.control.claim)).raiseTo .b
      .tokenLost) := by
  simp only [seizeToken, hother]

/-! ## RELEASE (R165) -/

theorem releaseToken_of_holder (hheld : s.control.token = .held l) : releaseToken l s = .ok (s.giveUpToken l) :=
  if_pos (State.holds_iff.mpr hheld)

theorem releaseToken_of_claimant (hheld : s.control.token ≠ .held l) (hclaim : s.control.claim = some l) :
    releaseToken l s = .ok (s.withToken s.control.token none) := by
  rw [releaseToken, if_neg (mt State.holds_iff.mp hheld), if_pos hclaim]

theorem releaseToken_of_neither (hheld : s.control.token ≠ .held l) (hclaim : s.control.claim ≠ some l) :
    releaseToken l s = .refuse .state := by
  rw [releaseToken, if_neg (mt State.holds_iff.mp hheld), if_neg hclaim]

/-! ## PASS (R166) -/

theorem mayPass_iff : (s.holds l && (s.controlLink l.other).link == .up) = true ↔
    s.control.token = .held l ∧ (s.controlLink l.other).link = .up := by
  rw [Bool.and_eq_true, State.holds_iff, beq_iff_eq]

theorem passToken_of_up (hheld : s.control.token = .held l) (hup : (s.controlLink l.other).link = .up) :
    passToken l s = .ok ((s.withToken (.held l.other)
      (if s.control.claim = some l.other then none else s.control.claim)).raiseTo l.other .tokenGranted) :=
  if_pos (mayPass_iff.mpr ⟨hheld, hup⟩)

theorem passToken_of_not_holder_or_down (h : s.control.token ≠ .held l ∨ (s.controlLink l.other).link = .down) :
    passToken l s = .refuse .state := by
  refine if_neg (mt mayPass_iff.mp fun ⟨hheld, hup⟩ => ?_)
  rcases h with hnot | hdown
  · exact hnot hheld
  · rw [hup] at hdown
    exact nomatch hdown

/-! ## A link that goes DOWN on silence (R160, R167) -/

theorem State.dropShare_of_holder (hheld : s.control.token = .held l) :
    s.dropShare l = (s.giveUpToken l).raiseTo l .tokenLost := if_pos (State.holds_iff.mpr hheld)

theorem State.dropShare_of_claimant (hheld : s.control.token ≠ .held l) (hclaim : s.control.claim = some l) :
    s.dropShare l = s.withToken s.control.token none := by
  rw [State.dropShare, if_neg (mt State.holds_iff.mp hheld), if_pos hclaim]

theorem State.dropShare_of_neither (hheld : s.control.token ≠ .held l) (hclaim : s.control.claim ≠ some l) :
    s.dropShare l = s := by
  rw [State.dropShare, if_neg (mt State.holds_iff.mp hheld), if_neg hclaim]

end

/-- The state in which link `l` has gone DOWN on silence and LINK_DOWN is raised, before R167 looks at the token. -/
def State.silenced (s : State) (l : Side) : State :=
  (s.withLink l { s.controlLink l with link := .down, timer := none }).raise .linkDown

theorem State.silenced_token (s : State) (l : Side) : (s.silenced l).control.token = s.control.token := by
  rw [State.silenced, (State.raise_marks _ _).token, State.withLink_control, ControlUnit.setLink_token]

theorem State.silenced_claim (s : State) (l : Side) : (s.silenced l).control.claim = s.control.claim := by
  rw [State.silenced, (State.raise_marks _ _).claim, State.withLink_control, ControlUnit.setLink_claim]

theorem exec_controlSilenceDeadline_of_reached {s : State} {l : Side} {dl : Nat} (hup : (s.controlLink l).link = .up)
    (htimer : (s.controlLink l).timer = some dl) (hdl : dl ≤ s.elapsed) :
    exec (.controlSilenceDeadline l) s = .next ((s.silenced l).dropShare l) := by
  have hreached : ((s.controlLink l).link == .up &&
      (s.controlLink l).timer.any fun d => decide (d ≤ s.elapsed)) = true := by
    simp [hup, htimer, hdl]
  exact congrArg Host.Outcome.next (if_pos hreached)

/-- Settles O36: going DOWN and raising LINK_DOWN leave the token and the claim as they were, so R167 takes the branch
that they name in the state before. -/
theorem controlSilenceReleasesToken : Obligations.ControlSilenceReleasesToken := by
  unfold Obligations.ControlSilenceReleasesToken
  intro s l dl hup htimer hdl down
  rw [exec_controlSilenceDeadline_of_reached hup htimer hdl, ← s.silenced_token l, ← s.silenced_claim l]
  refine ⟨fun hheld hclaim => ?handOn, fun hheld hclaim => ?free, fun hheld hclaim => ?claimEnds,
    fun hheld hclaim => ?nothingHeld⟩
  case handOn => rw [State.dropShare_of_holder hheld, State.giveUpToken_of_claim hclaim]; rfl
  case free => rw [State.dropShare_of_holder hheld, State.giveUpToken_of_no_claim hclaim]; rfl
  case claimEnds => rw [State.dropShare_of_claimant hheld hclaim]; rfl
  case nothingHeld => rw [State.dropShare_of_neither hheld hclaim]; rfl

/-- Settles O37: both commands are handled in the state that has heard them, whose token and claim are as before, so the
token chooses the branch of R163 or R164; on link B, SEIZE is refused whatever the token is. -/
theorem claimAndSeizeTakeToken : Obligations.ClaimAndSeizeTakeToken := by
  unfold Obligations.ClaimAndSeizeTakeToken
  refine ⟨fun s l tag h => ?claim, fun s tag h => ?seizeOnB, fun s tag h => ?seizeOnA⟩
  case claim =>
    intro t
    rw [exec_claim h, ← s.hearControl_token l]
    refine ⟨fun hfree => ?free, fun hheld => ?holder, fun hother => ?other⟩
    case free => rw [claimToken_of_free hfree]; rfl
    case holder => rw [claimToken_of_holder hheld]; rfl
    case other => rw [claimToken_of_other hother]; rfl
  case seizeOnB => rw [exec_seize h, seizeToken_b]; rfl
  case seizeOnA =>
    intro t
    rw [exec_seize h, ← s.hearControl_token .a, ← s.hearControl_claim .a]
    refine ⟨fun hfree => ?free, fun hheld => ?holder, fun hother => ?other⟩
    case free => rw [seizeToken_of_free hfree]; rfl
    case holder => rw [seizeToken_of_holder hheld]; rfl
    case other => rw [seizeToken_of_other hother]; rfl

/-- Settles O38: both commands are handled in the state that has heard them, where the token, the claim and the other
link are as before; who holds the token, and then the claim or the other link's state, choose the branch of R165 or
R166. -/
theorem releaseAndPassGiveToken : Obligations.ReleaseAndPassGiveToken := by
  unfold Obligations.ReleaseAndPassGiveToken
  refine ⟨fun s l tag h => ?release, fun s l tag h => ?pass⟩
  case release =>
    intro t
    rw [exec_release h, ← s.hearControl_token l, ← s.hearControl_claim l]
    refine ⟨fun hheld hclaim => ?handOn, fun hheld hclaim => ?free, fun hheld hclaim => ?claimEnds,
      fun hheld hclaim => ?refused⟩
    case handOn => rw [releaseToken_of_holder hheld, State.giveUpToken_of_claim hclaim]; rfl
    case free => rw [releaseToken_of_holder hheld, State.giveUpToken_of_no_claim hclaim]; rfl
    case claimEnds => rw [releaseToken_of_claimant hheld hclaim]; rfl
    case refused => rw [releaseToken_of_neither hheld hclaim]; rfl
  case pass =>
    intro t
    rw [exec_pass h, ← s.hearControl_token l, ← s.hearControl_claim l, ← s.hearControl_controlLink_other l]
    refine ⟨fun hheld hup => ?handOn, fun hnot => ?refused⟩
    case handOn => rw [passToken_of_up hheld hup]; rfl
    case refused => rw [passToken_of_not_holder_or_down hnot]; rfl

end Sys2Proof.Machine

/-! Properties that survive a step: the induction over the queue, and the properties that taking crossings and reads
keep because they read nothing that those operations write. -/

namespace Sys2Proof.Machine

set_option Elab.async false

/-! ## One step -/

/-- A property that does not read the queue and that every command keeps is kept by every step. -/
theorem step_keeps {P : State → Prop} (queue : ∀ s q, P s → P { s with pending := q })
    (command : ∀ i s t, P s → exec i s = .next t → P t) {s t : State} (hs : P s) (h : step s = .next t) : P t := by
  unfold step at h
  split at h
  · cases h; exact hs
  · exact command _ _ _ (queue s _ hs) h

/-! ## Crossings -/

/-- `P` is kept by everything that taking a crossing does. The screens are written by offers alone. -/
structure KeptByRecords (P : State → Prop) : Prop where
  count : ∀ s c q, P s → P (s.count c q)
  raise : ∀ s c, P s → P (s.raise c)
  park : ∀ s l, P s → P (s.withPark l)
  putRunner : ∀ s r, P s → P (s.putRunner r)
  takePlace : ∀ s p cr, P s → P (s.takePlace p cr).1
  watch : ∀ s e, P s → P (s.appendWatch e)
  offer : ∀ s k x, P s → P (s.settleScreen k (s.screens[k].offer s.now x))

namespace KeptByRecords

variable {P : State → Prop} (K : KeptByRecords P) {s : State}
include K

theorem raiseIf (b : Bool) (c : Condition) (h : P s) : P (s.raiseIf b c) := by
  unfold State.raiseIf
  split
  · exact K.raise _ _ h
  · exact h

theorem countAll (cs : List TallyClass) (q : Nat) (h : P s) : P (s.countAll cs q) := by
  unfold State.countAll
  induction cs generalizing s with
  | nil => exact h
  | cons c cs ih => exact ih (K.count _ _ _ h)

theorem judge (r : Runner) (p : Point) (cr : Crossing) (h : P s) : P (s.judge r p cr).1 := by
  unfold State.judge
  split
  · exact h
  · exact K.takePlace _ _ _ h

theorem logCrossing (r : Runner) (p : Point) (cr : Crossing) (h : P s) : P (s.logCrossing r p cr) := by
  unfold State.logCrossing
  split
  · exact K.watch _ _ h
  · exact h

theorem handToScreens (r : Runner) (p : Point) (cr : Crossing) (ks : List ScreenNo) (h : P s) :
    P (handToScreens r p cr ks s).1 := by
  induction ks generalizing s with
  | nil => exact h
  | cons k ks ih =>
    simp only [Machine.handToScreens]
    split
    · exact ih h
    · rename_i o ho
      refine ih ?_
      simp only [offerTo] at ho
      split at ho
      · obtain ⟨x, -, rfl⟩ := Option.map_eq_some_iff.mp ho
        exact K.offer _ _ _ h
      · exact nomatch ho

theorem handOffIf (b : Bool) (r : Runner) (p : Point) (cr : Crossing) (h : P s) : P (s.handOffIf b r p cr) := by
  have k := K.handToScreens r p cr (List.finRange 8) h
  unfold State.handOffIf State.handOff
  generalize Machine.handToScreens r p cr (List.finRange 8) s = x at k
  split
  · exact K.raiseIf _ _ k
  · exact h

theorem writeCrossing (r : Runner) (p : Point) (cr : Option Crossing) (h : P s) : P (s.writeCrossing r p cr) :=
  K.putRunner _ _ h

theorem recordNew (r : Runner) (i : Incoming) (b : Bool) (h : P s) : P (s.recordNew r i b) :=
  K.handOffIf _ _ _ _ <| K.logCrossing _ _ _ <| K.putRunner _ _ <| K.raiseIf _ _ <| K.count _ _ _ <| K.judge _ _ _ h

theorem replaceCrossing (r : Runner) (i : Incoming) (old : Crossing) (h : P s) : P (s.replaceCrossing r i old) :=
  K.raiseIf _ _ <| K.countAll _ _ <| K.writeCrossing _ _ _ <| K.judge _ _ _ h

theorem confirmCrossing (r : Runner) (i : Incoming) (old : Crossing) (h : P s) : P (s.confirmCrossing r i old) := by
  unfold State.confirmCrossing
  split
  · exact K.raiseIf _ _ <| K.countAll _ _ <| K.writeCrossing _ _ _ <| K.judge _ _ _ h
  · exact K.count _ _ _ <| K.writeCrossing _ _ _ h

theorem applyCrossing (r : Runner) (i : Incoming) (b : Bool) (h : P s) : P (s.applyCrossing r i b) := by
  simp only [State.applyCrossing]
  split
  · exact K.recordNew r i b h
  · split_ifs
    · exact K.count _ _ _ h
    · exact K.replaceCrossing r i _ h
    · exact K.confirmCrossing r i _ h
    · exact K.count _ _ _ h

theorem parkCrossing (chip : Word32) (p : Point) (x : ParkedCrossing) (h : P s) : P (s.parkCrossing chip p x) := by
  unfold State.parkCrossing
  split_ifs
  · exact K.park _ _ h
  · exact K.raise _ _ <| K.count _ _ _ <| K.park _ _ h
  · exact K.raise _ _ <| K.raise _ _ <| K.count _ _ _ <| K.count _ _ _ <| K.park _ _ h

theorem takeCrossing (i : Incoming) (b : Bool) (h : P s) : P (s.takeCrossing i b) := by
  unfold State.takeCrossing
  split
  · exact K.parkCrossing _ _ _ h
  · split
    · exact h
    · split_ifs
      · exact K.applyCrossing _ _ _ h
      · exact K.count _ _ _ h

end KeptByRecords

/-! ## Closing passages -/

/-- `P` is kept by everything that applying reads to passages and closing these do. -/
structure KeptByClosing (P : State → Prop) : Prop where
  count : ∀ s c q, P s → P (s.count c q)
  crossing : ∀ s i b, P s → P (s.takeCrossing i b)
  lists : ∀ s v, P s → P (s.withPassage { s.passage with lists := v })

namespace KeptByClosing

variable {P : State → Prop} (K : KeptByClosing P) {s : State}
include K

theorem closeCrossing (p : Port) (x : Passage) (h : P s) : P (s.closeCrossing p x) := by
  unfold State.closeCrossing
  split
  · exact K.count _ _ _ (K.crossing _ _ _ h)
  · exact h

theorem closeAll (p : Port) (l : List Passage) (h : P s) : P (s.closeAll p l) := by
  unfold State.closeAll
  induction l generalizing s with
  | nil => exact h
  | cons x l ih => exact ih (K.closeCrossing p x h)

theorem closePassage (p : Port) (x : Passage) (h : P s) : P (s.closePassage p x) :=
  K.closeCrossing p x (K.lists _ _ h)

theorem closeOverdue (p : Port) (h : P s) : P (s.closeOverdue p) := K.closeAll p _ (K.lists _ _ h)

theorem clearPassages (p : Port) (discard : Bool) (h : P s) : P (s.clearPassages p discard) := by
  simp only [State.clearPassages]
  split
  · exact K.lists _ _ h
  · exact K.closeAll p _ (K.lists _ _ h)

theorem applyRead (r : HeldRead) (h : P s) : P (s.applyRead r) := by
  have force : P (s.forceOldest r.port) := by
    unfold State.forceOldest
    split
    · exact h
    · exact K.count _ _ _ (K.closeCrossing _ _ (K.lists _ _ h))
  unfold State.applyRead
  split
  · exact K.lists _ _ h
  · split
    · exact K.lists _ _ h
    · exact K.lists _ _ force

theorem finishRead (r : HeldRead) (h : P s) : P (s.finishRead r) := by
  unfold State.finishRead
  split
  · exact K.applyRead r h
  · unfold State.handOnRead
    split
    · exact K.count _ _ _ (K.crossing _ _ _ h)
    · exact h
  · exact h

theorem closeTouched (r : HeldRead) (h : P s) : P (s.closeTouched r) := by
  unfold State.closeTouched
  split
  · split
    · split
      · exact K.closePassage _ _ h
      · exact h
    · exact h
  · exact h

end KeptByClosing

/-! ## Reads -/

/-- `P` is kept by everything that the messages of decoders, the takes and the passages do. -/
structure KeptByReads (P : State → Prop) : Prop where
  count : ∀ s c q, P s → P (s.count c q)
  raise : ∀ s c, P s → P (s.raise c)
  crossing : ∀ s i b, P s → P (s.takeCrossing i b)
  intake : ∀ s p m, P s → P (s.withIntake p m)
  align : ∀ s p a, P s → P (s.withAlign p a)
  passage : ∀ s u, P s → P (s.withPassage u)
  transmit : ∀ s m, P s → P (s.transmit m)

namespace KeptByReads

theorem toClosing {P : State → Prop} (K : KeptByReads P) : KeptByClosing P :=
  ⟨K.count, K.crossing, fun _ _ h => K.passage _ _ h⟩

variable {P : State → Prop} (K : KeptByReads P) {s : State}
include K

theorem raiseIf (b : Bool) (c : Condition) (h : P s) : P (s.raiseIf b c) := by
  unfold State.raiseIf
  split
  · exact K.raise _ _ h
  · exact h

theorem countTimes (c : TallyClass) (q n : Nat) (h : P s) : P (s.countTimes c q n) := by
  induction n generalizing s with
  | zero => exact h
  | succ n ih => exact ih (K.count _ _ _ h)

theorem replay (e : ParkEntry) (h : P s) : P (s.replay e) := by
  unfold State.replay
  generalize e.incoming = l
  induction l generalizing s with
  | nil => exact h
  | cons i l ih => exact ih (K.crossing _ _ _ h)

/-! ### Takes -/

theorem creditCheck (p : Port) (h : P s) : P (s.creditCheck p) := by
  simp only [State.creditCheck]
  split
  · exact K.transmit _ _ (K.intake _ _ _ h)
  · exact h

theorem returnCredit (p : Port) (h : P s) : P (s.returnCredit p) := by
  unfold State.returnCredit
  split
  · exact K.creditCheck p (K.intake _ _ _ h)
  · exact h

theorem takeRead (p : Port) (x : IntakeRead) (rest : List IntakeRead) (h : P s) : P (s.takeRead p x rest) := by
  have k : P (((s.withIntake p { s.intake[p] with list := rest }).withPassage
    { s.passage with lastServed := p }).creditCheck p) := K.creditCheck p (K.passage _ _ (K.intake _ _ _ h))
  simp only [State.takeRead]
  split
  · exact K.returnCredit p (K.count _ _ _ k)
  · split
    · exact K.passage _ _ k
    · exact K.returnCredit p (K.count _ _ _ k)

theorem takeUpTo (n : Nat) (h : P s) : P (s.takeUpTo n) := by
  induction n generalizing s with
  | zero => exact h
  | succ n ih =>
    unfold State.takeUpTo
    split
    · split
      · exact h
      · split
        · exact h
        · exact ih (K.takeRead _ _ _ h)
    · exact h

theorem takeReads (h : P s) : P s.takeReads := K.takeUpTo _ h

/-! ### Messages of a decoder -/

theorem hearMat (p : Port) (h : P s) : P (s.hearMat p) := by
  unfold State.hearMat
  split
  · exact K.intake _ _ _ h
  · exact h

theorem openSession (p : Port) (h : P s) : P (s.openSession p) := K.transmit _ _ (K.intake _ _ _ h)

theorem acceptRead (p : Port) (lost : Nat) (seq : Byte) (x : IntakeRead) (h : P s) : P (s.acceptRead p lost seq x) := by
  have k := K.countTimes .readLost p lost h
  simp only [State.acceptRead]
  split
  · exact K.creditCheck p (K.count _ _ _ (K.intake _ _ _ k))
  · refine K.takeReads ?_
    split
    · exact K.count _ _ _ (K.intake _ _ _ k)
    · exact K.creditCheck p (K.count _ _ _ (K.intake _ _ _ k))

theorem classifyRead (p : Port) (seq : Byte) (x : IntakeRead) (h : P s) : P (s.classifyRead p seq x) := by
  simp only [State.classifyRead]
  split_ifs
  · exact K.raise _ _ (K.count _ _ _ h)
  · exact K.acceptRead _ _ _ _ h
  · exact K.count _ _ _ h

theorem takeReport (p : Port) (d : Word32) (h : P s) : P (s.takeReport p d) := by
  have appended : ∀ a b, P (((s.withAlign p a).count .syncAccepted p).raiseIf b .driftLimit) := fun a b =>
    K.raiseIf _ _ (K.count _ _ _ (K.align _ _ _ h))
  simp only [State.takeReport]
  split
  · exact K.count _ _ _ h
  · split
    · exact appended _ _
    · split_ifs
      · exact K.count _ _ _ h
      · exact K.count _ _ _ (K.align _ _ _ h)
      · exact appended _ _

theorem goStale (p : Port) (h : P s) : P (s.goStale p) := K.raise _ _ (K.align _ _ _ h)

theorem moveStale (p : Port) (h : P s) : P (s.moveStale p) := by
  simp only [State.moveStale]
  split
  · split
    · exact K.goStale p h
    · exact K.align _ _ _ h
  · exact h

theorem discardFrame (link : LinkId) (h : P s) : P (s.discardFrame link) := by
  cases link with
  | mat p => exact K.count _ _ _ h
  | screen k => exact h
  | control l => exact h

/-! ### The held read -/

theorem resetHeld (p : Port) (h : P s) : P (s.resetHeld p) := by
  unfold State.resetHeld
  split
  · split
    · exact K.passage _ _ h
    · exact h
  · exact h

end KeptByReads

/-! ## The commands of the mat ports -/

/-- The commands that decoders and the deadlines of mat ports and passages bring. -/
def isMatTraffic : Instr → Bool
  | .matHello .. | .read .. | .syncReport .. | .matSilenceDeadline .. | .discardedFrame .. | .byteGapTimeout ..
  | .staleDeadline .. | .readCompletion | .closeDeadline .. => true
  | _ => false

/-- What reads keep, every command of the mat ports keeps. -/
theorem KeptByReads.exec {P : State → Prop} (K : KeptByReads P) {i : Instr} {s t : State} (hi : isMatTraffic i = true)
    (hs : P s) (h : exec i s = .next t) : P t := by
  cases i <;> first | exact Bool.noConfusion hi | skip
  case matHello p =>
    simp only [Machine.exec, execMatHello, Host.Outcome.next.injEq] at h
    subst h
    split
    · exact K.openSession p (K.align _ _ _ hs)
    · exact K.openSession p hs
  case read p seq chip dtime level =>
    simp only [Machine.exec, execRead, Host.Outcome.next.injEq] at h
    subst h
    split
    · exact K.classifyRead _ _ _ (K.hearMat p hs)
    · exact K.count _ _ _ hs
  case syncReport p d =>
    simp only [Machine.exec, execSyncReport, Host.Outcome.next.injEq] at h
    subst h
    exact K.takeReport p d (K.hearMat p hs)
  case matSilenceDeadline p =>
    simp only [Machine.exec, execMatSilenceDeadline, Host.Outcome.next.injEq] at h
    subst h
    split
    · exact K.raise _ _ (K.intake _ _ _ hs)
    · exact hs
  case discardedFrame l =>
    simp only [Machine.exec, execDiscardedFrame, Host.Outcome.next.injEq] at h
    subst h
    exact K.discardFrame l hs
  case byteGapTimeout l =>
    simp only [Machine.exec, execByteGapTimeout, Host.Outcome.next.injEq] at h
    subst h
    exact K.discardFrame l hs
  case staleDeadline p =>
    simp only [Machine.exec, execStaleDeadline, Host.Outcome.next.injEq] at h
    subst h
    split
    · exact K.goStale p hs
    · exact hs
  case readCompletion =>
    simp only [Machine.exec, execReadCompletion, Host.Outcome.next.injEq] at h
    subst h
    split
    · exact hs
    · exact K.takeReads (K.toClosing.closeTouched _ (K.returnCredit _ (K.passage _ _ (K.toClosing.finishRead _ hs))))
  case closeDeadline p chip =>
    simp only [Machine.exec, execCloseDeadline, Host.Outcome.next.injEq] at h
    subst h
    split
    · exact hs
    · split
      · exact K.toClosing.closePassage _ _ hs
      · exact hs

end Sys2Proof.Machine

/-! The commands of the control links (10.1): each is taken by `takeCommand` with a handling of its own. -/

namespace Sys2Proof.Machine

set_option Elab.async false

/-- The own handling of a command of a control link, once it is judged (R161 step 4). -/
def ownHandling : Instr → State → Verdict
  | .status .. => readStatus
  | .readRunner _ _ bib => readRunner bib
  | .readPort _ _ port => readPort port
  | .readScreen _ _ screen => readScreen screen
  | .readParkList _ _ start => readParkList start
  | .readTallies .. => readTallies
  | .readWatchLog _ _ count => readWatchLog count
  | .readConditions l _ => readConditions l
  | .ackConditions l _ conds => ackConditions l conds
  | .setMask l _ conds => setMask l conds
  | .claim l _ => claimToken l
  | .seize l _ => seizeToken l
  | .release l _ => releaseToken l
  | .pass l _ => passToken l
  | .startClock _ _ preset => startClock preset
  | .stopClock .. => stopClock
  | .gun _ _ wave time => fireGun wave time
  | .setPoint _ _ point distance policy display => setPoint point distance policy display
  | .clearPoint _ _ point => clearPoint point
  | .setPort _ _ port point allowance => setPort port point allowance
  | .setLimits _ _ limits => setLimits limits
  | .setProfile _ _ screen profile => setProfile screen profile
  | .register _ _ bib wave chips name => registerRunner bib wave chips name
  | .remove _ _ bib => removeRunner bib
  | .setName _ _ bib name => setName bib name
  | .amend _ _ bib point time => amendCrossing bib point time
  | .amendClear _ _ bib point => clearCrossing bib point
  | .accept _ _ bib point => acceptCrossing bib point
  | .withdraw _ _ bib => withdrawRunner bib
  | .disqualify _ _ bib => disqualifyRunner bib
  | .reinstate _ _ bib => reinstateRunner bib
  | .bind _ _ chip bib => bindChip chip bib
  | .discard _ _ chip => discardChip chip
  | .setWatch _ _ bibs => setWatch bibs
  | .setTally _ _ tally cls qualifiers limit stop => setTally tally cls qualifiers limit stop
  | .freeze _ _ triggers => freezeTallies triggers
  | .thaw .. => thawTallies
  | .clearTallies .. => clearTallies
  | .store .. => storeSettings
  | .raceReset l tag => beginRaceReset l tag
  | .restart .. => restartPart
  | _ => fun _ => .refuse .range

/-- Every command of a control link is taken on its link with its tag, needs the token unless it is open, and then runs
its own handling (R160, R161, R162). -/
theorem exec_eq_takeCommand {i : Instr} {l : Side} {tag : Byte} (h : sender i = some (l, tag)) (s : State) :
    exec i s = takeCommand l tag (!isOpen i) (ownHandling i) s := by
  cases i <;> cases h <;> rfl

section
variable {i : Instr} {l : Side} {tag : Byte} {s : State} (h : sender i = some (l, tag))
include h

/-- A command of a control link that is not discarded, not BUSY and not NOT_IN_CHARGE is answered by its own
handling. -/
theorem exec_of_ready (hready : s.ready l) (htoken : isOpen i = true ∨ s.control.token = .held l) :
    exec i s = .next ((s.hearControl l).conclude l tag (ownHandling i (s.hearControl l))) := by
  rw [exec_eq_takeCommand h]
  exact takeCommand_taken hready.1 hready.2 fun hneeds => beq_iff_eq.mpr (htoken.resolve_left (by simpa using hneeds))

/-- A property that hearing a command and sending an answer keep is kept by a command whose own handling keeps it. -/
theorem exec_keeps_of_handling {P : State → Prop} {t : State} (hear : ∀ u, P u → P (u.hearControl l))
    (send : ∀ u m, P u → P (u.transmit m))
    (own : ∀ u, P u → u.startUp = false → (u.controlLink l).inProgress = none → (ownHandling i u).Keeps P)
    (hs : P s) (ht : exec i s = .next t) : P t := by
  rw [exec_eq_takeCommand h] at ht
  exact takeCommand_keeps hear send (fun u hu hstart hidle _ => own u hu hstart hidle) hs ht

end

/-! ## Verdicts behind checks -/

/-- A verdict that is kept when it answers OK in a state with the property. -/
theorem Verdict.keeps_ok {P : State → Prop} {s : State} (h : P s) : (Verdict.ok s).Keeps P := h

theorem Verdict.keeps_ite {P : State → Prop} {c : Prop} [Decidable c] {v w : Verdict} (hv : c → v.Keeps P)
    (hw : ¬ c → w.Keeps P) : (if c then v else w).Keeps P := by
  split
  · exact hv ‹_›
  · exact hw ‹_›

/-- A correction command that is not refused runs on the record of its bib (R102). -/
theorem State.correct_keeps {P : State → Prop} {s : State} {bib : Half} {inRange : Bool} {k : Runner → Verdict}
    (h : s.resetting = false → ∀ r, s.runner bib = some r → (k r).Keeps P) : (s.correct bib inRange k).Keeps P := by
  refine State.unlessResetting_keeps fun hready => ?_
  refine Verdict.keeps_ite (fun _ => trivial) fun _ => ?_
  split
  · trivial
  · exact h hready _ ‹_›

theorem State.correctAt_keeps {P : State → Prop} {s : State} {bib : Half} {point : Byte} {k : Runner → Point → Verdict}
    (h : s.resetting = false → ∀ r p, s.runner bib = some r → (k r p).Keeps P) : (s.correctAt bib point k).Keeps P := by
  unfold State.correctAt
  split
  · exact State.correct_keeps fun _ _ _ => trivial
  · exact State.correct_keeps fun hready r hr => h hready r _ hr

end Sys2Proof.Machine

/-! Which parts of the state a command may write: one list for each row of the table, and the proof that everything else
stays. An invariant is then proved for the rows that write what it reads. -/

namespace Sys2Proof.Machine

set_option Elab.async false

/-! ## The parts of the state -/

/-- The parts of the state that the invariants read. `progress` is the commands in progress on the two links, `tallies`
what a tally counts and its limit, `race` the state of a Race Reset. -/
inductive Block where
  | clock
  | intake
  | align
  | passage
  | course
  | ports
  | limits
  | runners
  | chipMap
  | race
  | park
  | screens
  | profiles
  | token
  | watchList
  | watchLog
  | progress
  | tallies
  | store
  | startUp
  deriving DecidableEq

/-- The type of what a part holds. -/
def Block.Value : Block → Type
  | .clock => RaceClock
  | .intake => Vector MatIntake 12
  | .align => Vector Alignment 12
  | .passage => PassageUnit
  | .course => Course
  | .ports => Vector PortAssignment 12
  | .limits => Limits
  | .runners => List Runner × Vector Nat 10
  | .chipMap => List (Word32 × Half)
  | .race => RegistryState × Option Side × List Half
  | .park => List ParkEntry
  | .screens => Vector Screen 8
  | .profiles => ScreenNo → Profile
  | .token => Token × Option Side
  | .watchList => List Half
  | .watchLog => List WatchEntry
  | .progress => Side → Option Progress
  | .tallies => Fin 8 → TallyClass × List Nat × Option Word32
  | .store => SettingsStore
  | .startUp => Bool

/-- What a part holds in a state. -/
def Block.read : (b : Block) → State → b.Value
  | .clock, s => s.clock
  | .intake, s => s.intake
  | .align, s => s.align
  | .passage, s => s.passage
  | .course, s => s.registry.course
  | .ports, s => s.registry.ports
  | .limits, s => s.registry.limits
  | .runners, s => (s.registry.runners, s.registry.counters)
  | .chipMap, s => s.registry.chipMap
  | .race, s => (s.registry.state, s.registry.requester, s.registry.clearing)
  | .park, s => s.park
  | .screens, s => s.screens
  | .profiles, s => fun k => s.screens[k].profile
  | .token, s => (s.control.token, s.control.claim)
  | .watchList, s => s.control.watchList
  | .watchLog, s => s.control.watchLog
  | .progress, s => fun l => (s.controlLink l).inProgress
  | .tallies, s => fun i => (s.tally.tallies[i].cls, s.tally.tallies[i].qualifiers, s.tally.tallies[i].limit)
  | .store, s => s.store
  | .startUp, s => s.startUp

/-- `t` differs from `s` in the parts `bs` at most, as far as the invariants read it. -/
def Frame (bs : List Block) (s t : State) : Prop := ∀ b, b ∉ bs → b.read t = b.read s

namespace Frame

variable {bs cs : List Block} {s t u : State}

theorem refl (bs : List Block) (s : State) : Frame bs s s := fun _ _ => rfl

theorem trans (h : Frame bs s t) (k : Frame bs t u) : Frame bs s u := fun b hb => (k b hb).trans (h b hb)

theorem mono (h : Frame bs s t) (hsub : bs ⊆ cs) : Frame cs s t := fun b hb => h b fun hm => hb (hsub hm)

/-- A part that is known to stay need not be listed. -/
theorem drop {b : Block} (h : Frame (b :: bs) s t) (hb : b.read t = b.read s) : Frame bs s t := fun c hc => by
  by_cases e : c = b
  · exact e ▸ hb
  · exact h c (by simp [e, hc])

theorem clock (h : Frame bs s t) (hb : Block.clock ∉ bs := by decide) : t.clock = s.clock := h _ hb

theorem intake (h : Frame bs s t) (hb : Block.intake ∉ bs := by decide) : t.intake = s.intake := h _ hb

theorem align (h : Frame bs s t) (hb : Block.align ∉ bs := by decide) : t.align = s.align := h _ hb

theorem passage (h : Frame bs s t) (hb : Block.passage ∉ bs := by decide) : t.passage = s.passage := h _ hb

theorem course (h : Frame bs s t) (hb : Block.course ∉ bs := by decide) : t.registry.course = s.registry.course := h _ hb

theorem ports (h : Frame bs s t) (hb : Block.ports ∉ bs := by decide) : t.registry.ports = s.registry.ports := h _ hb

theorem limits (h : Frame bs s t) (hb : Block.limits ∉ bs := by decide) : t.registry.limits = s.registry.limits := h _ hb

theorem runners (h : Frame bs s t) (hb : Block.runners ∉ bs := by decide) :
    t.registry.runners = s.registry.runners := congrArg Prod.fst (h _ hb)

theorem counters (h : Frame bs s t) (hb : Block.runners ∉ bs := by decide) :
    t.registry.counters = s.registry.counters := congrArg Prod.snd (h _ hb)

theorem chipMap (h : Frame bs s t) (hb : Block.chipMap ∉ bs := by decide) :
    t.registry.chipMap = s.registry.chipMap := h _ hb

theorem state (h : Frame bs s t) (hb : Block.race ∉ bs := by decide) : t.registry.state = s.registry.state :=
  congrArg Prod.fst (h _ hb)

theorem requester (h : Frame bs s t) (hb : Block.race ∉ bs := by decide) :
    t.registry.requester = s.registry.requester := congrArg (fun x => x.2.1) (h _ hb)

theorem clearing (h : Frame bs s t) (hb : Block.race ∉ bs := by decide) :
    t.registry.clearing = s.registry.clearing := congrArg (fun x => x.2.2) (h _ hb)

theorem park (h : Frame bs s t) (hb : Block.park ∉ bs := by decide) : t.park = s.park := h _ hb

theorem screens (h : Frame bs s t) (hb : Block.screens ∉ bs := by decide) : t.screens = s.screens := h _ hb

theorem profile (h : Frame bs s t) (k : ScreenNo) (hb : Block.profiles ∉ bs := by decide) :
    t.screens[k].profile = s.screens[k].profile := congrFun (h _ hb) k

theorem token (h : Frame bs s t) (hb : Block.token ∉ bs := by decide) : t.control.token = s.control.token :=
  congrArg Prod.fst (h _ hb)

theorem claim (h : Frame bs s t) (hb : Block.token ∉ bs := by decide) : t.control.claim = s.control.claim :=
  congrArg Prod.snd (h _ hb)

theorem watchList (h : Frame bs s t) (hb : Block.watchList ∉ bs := by decide) :
    t.control.watchList = s.control.watchList := h _ hb

theorem watchLog (h : Frame bs s t) (hb : Block.watchLog ∉ bs := by decide) :
    t.control.watchLog = s.control.watchLog := h _ hb

theorem inProgress (h : Frame bs s t) (l : Side) (hb : Block.progress ∉ bs := by decide) :
    (t.controlLink l).inProgress = (s.controlLink l).inProgress := congrFun (h _ hb) l

theorem store (h : Frame bs s t) (hb : Block.store ∉ bs := by decide) : t.store = s.store := h _ hb

theorem startUp (h : Frame bs s t) (hb : Block.startUp ∉ bs := by decide) : t.startUp = s.startUp := h _ hb

end Frame

/-! ## What counting leaves of the tallies, and an offer of the profiles -/

theorem State.offerTrigger_tallies (s : State) (c : Condition) :
    Block.tallies.read (s.offerTrigger c) = Block.tallies.read s := by
  rw [State.offerTrigger_eq]
  rfl

theorem State.raise_tallies (s : State) (c : Condition) : Block.tallies.read (s.raise c) = Block.tallies.read s :=
  State.offerTrigger_tallies _ c

theorem State.raiseTo_tallies (s : State) (l : Side) (c : Condition) :
    Block.tallies.read (s.raiseTo l c) = Block.tallies.read s := State.offerTrigger_tallies _ c

theorem State.raiseIf_tallies (s : State) (b : Bool) (c : Condition) :
    Block.tallies.read (s.raiseIf b c) = Block.tallies.read s := by
  unfold State.raiseIf
  split
  · exact s.raise_tallies c
  · rfl

theorem State.count_tallies (s : State) (c : TallyClass) (q : Nat) :
    Block.tallies.read (s.count c q) = Block.tallies.read s := by
  have bumped : Block.tallies.read (s.withTally { s.tally with
      tallies := Vector.ofFn fun i : Fin 8 => s.tally.tallies[i].bump c q }) = Block.tallies.read s := by
    funext i
    simp only [Block.read, State.withTally, Fin.getElem_fin, Vector.getElem_ofFn, Tally.bump]
    split <;> rfl
  simp only [State.count]
  split
  · rfl
  · split
    · exact (State.raiseIf_tallies _ _ _).trans bumped
    · exact (State.raiseIf_tallies _ _ _).trans bumped

theorem State.countAll_tallies (s : State) (cs : List TallyClass) (q : Nat) :
    Block.tallies.read (s.countAll cs q) = Block.tallies.read s := by
  unfold State.countAll
  induction cs generalizing s with
  | nil => rfl
  | cons c cs ih => exact (ih _).trans (s.count_tallies c q)

theorem State.riseSequence_tallies (s : State) (k : ScreenNo) :
    Block.tallies.read (s.riseSequence k) = Block.tallies.read s := by
  simp only [State.riseSequence]
  split <;> rfl

theorem State.settleScreen_tallies (s : State) (k : ScreenNo) (o : ScreenOutcome) :
    Block.tallies.read (s.settleScreen k o) = Block.tallies.read s := by
  have h := State.countAll_tallies (s.withScreen k o.screen) o.counts k
  simp only [State.settleScreen]
  split
  · exact (State.riseSequence_tallies _ k).trans h
  · exact h

/-- Settling a screen whose event kept its profile keeps every profile. -/
theorem State.settleScreen_profiles (s : State) (k : ScreenNo) {o : ScreenOutcome}
    (h : o.screen.profile = s.screens[k].profile) :
    Block.profiles.read (s.settleScreen k o) = Block.profiles.read s := by
  funext j
  show (s.settleScreen k o).screens[j].profile = s.screens[j].profile
  by_cases e : j = k
  · subst e
    rw [State.settleScreen_self]
    split <;> exact h
  · rw [State.settleScreen_other _ _ e]

theorem Screen.offer_profile (x : Screen) (now : Nat) (item : DisplayItem) :
    (x.offer now item).screen.profile = x.profile := by
  simp only [Screen.offer]
  split <;> rfl

theorem Screen.dropBib_profile (x : Screen) (now : Nat) (bib : Half) : (x.dropBib now bib).screen.profile = x.profile := by
  simp only [Screen.dropBib]
  split_ifs <;> rfl

theorem State.appendWatch_display (s : State) (e : WatchEntry) :
    (s.appendWatch e).screens = s.screens ∧ (s.appendWatch e).registry = s.registry ∧
      (s.appendWatch e).park = s.park ∧ Block.tallies.read (s.appendWatch e) = Block.tallies.read s := by
  unfold State.appendWatch
  split
  · exact ⟨rfl, rfl, rfl, rfl⟩
  · have m := State.raiseIf_marks (s.withControl { s.control with overflow := true }) (!s.control.overflow) .watchOverflow
    exact ⟨m.screens, m.registry, m.park, State.raiseIf_tallies _ _ _⟩

theorem State.takePlace_kept (s : State) (p : Point) (cr : Crossing) :
    Block.tallies.read (s.takePlace p cr).1 = Block.tallies.read s ∧ (s.takePlace p cr).1.screens = s.screens := by
  rw [State.takePlace_eq]
  exact ⟨rfl, rfl⟩

theorem keptByRecords_tallies (x : Block.tallies.Value) : KeptByRecords fun s => Block.tallies.read s = x where
  count s c q h := (s.count_tallies c q).trans h
  raise s c h := (s.raise_tallies c).trans h
  park _ _ h := h
  putRunner _ _ h := h
  takePlace s p cr h := (s.takePlace_kept p cr).1.trans h
  watch s e h := (s.appendWatch_display e).2.2.2.trans h
  offer s k _ h := (s.settleScreen_tallies k _).trans h

theorem keptByRecords_profiles (x : Block.profiles.Value) : KeptByRecords fun s => Block.profiles.read s = x where
  count s c q h := (congrArg (fun (v : Vector Screen 8) (k : ScreenNo) => v[k].profile) (s.count_marks c q).screens).trans h
  raise s c h := (congrArg (fun (v : Vector Screen 8) (k : ScreenNo) => v[k].profile) (s.raise_marks c).screens).trans h
  park _ _ h := h
  putRunner _ _ h := h
  takePlace s p cr h :=
    (congrArg (fun (v : Vector Screen 8) (k : ScreenNo) => v[k].profile) (s.takePlace_kept p cr).2).trans h
  watch s e h :=
    (congrArg (fun (v : Vector Screen 8) (k : ScreenNo) => v[k].profile) (s.appendWatch_display e).1).trans h
  offer s k _ h := (s.settleScreen_profiles k (Screen.offer_profile _ _ _)).trans h

/-! ## From the laws of the operations to frames -/

section
variable {s t : State}

theorem TrafficOnly.frame (h : TrafficOnly s t) :
    Frame [.intake, .align, .passage, .runners, .park, .screens, .watchLog, .profiles, .tallies] s t := by
  intro b hb
  cases b with
  | clock => exact h.clock
  | course => exact h.course
  | ports => exact h.ports
  | limits => exact h.limits
  | chipMap => exact h.chipMap
  | race => exact congrArg₂ Prod.mk h.state (congrArg₂ Prod.mk h.requester h.clearing)
  | token => exact congrArg₂ Prod.mk h.token h.claim
  | watchList => exact h.watchList
  | progress => exact funext h.inProgress
  | store => exact h.store
  | startUp => exact h.startUp
  | _ => exact absurd (by decide) hb

theorem DisplayOnly.frame_except_profiles (h : DisplayOnly s t) (ht : Block.tallies.read t = Block.tallies.read s) :
    Frame [.screens, .profiles] s t :=
  have k : Frame (.intake :: .align :: .passage :: .runners :: .park :: .watchLog :: .tallies :: [.screens, .profiles]) s t :=
    h.toTraffic.frame.mono (by decide)
  ((((((k.drop h.intake).drop h.align).drop h.passage).drop
    (congrArg (fun r : Registry => (r.runners, r.counters)) h.registry)).drop h.park).drop h.watchLog).drop ht

theorem DisplayOnly.frame (h : DisplayOnly s t) (ht : Block.tallies.read t = Block.tallies.read s)
    (hp : Block.profiles.read t = Block.profiles.read s) : Frame [.screens] s t :=
  Frame.drop ((h.frame_except_profiles ht).mono (by decide)) hp

theorem MarksOnly.frame (h : MarksOnly s t) (ht : Block.tallies.read t = Block.tallies.read s) : Frame [] s t :=
  Frame.drop (h.toDisplayOnly.frame ht
    (congrArg (fun (v : Vector Screen 8) (k : ScreenNo) => v[k].profile) h.screens)) h.screens

theorem TakesOnly.frame (h : TakesOnly s t) (ht : Block.tallies.read t = Block.tallies.read s) :
    Frame [.intake, .passage] s t :=
  have k : Frame (.align :: .runners :: .park :: .screens :: .watchLog :: .profiles :: .tallies :: [.intake, .passage]) s t :=
    h.toTraffic.frame.mono (by decide)
  ((((((k.drop h.align).drop (congrArg (fun r : Registry => (r.runners, r.counters)) h.registry)).drop h.park).drop
    h.screens).drop h.watchLog).drop
    (congrArg (fun (v : Vector Screen 8) (k : ScreenNo) => v[k].profile) h.screens)).drop ht

/-- The parts that taking a crossing may write. -/
abbrev recordBlocks : List Block := [.runners, .park, .screens, .watchLog]

theorem RecordsOnly.frame (h : RecordsOnly s t) (ht : Block.tallies.read t = Block.tallies.read s)
    (hp : Block.profiles.read t = Block.profiles.read s) : Frame recordBlocks s t :=
  have k : Frame (.intake :: .align :: .passage :: .profiles :: .tallies :: recordBlocks) s t :=
    h.toTraffic.frame.mono (by decide)
  ((((k.drop h.intake).drop h.align).drop h.passage).drop hp).drop ht

end

/-! ## Frames of the operations -/

section
variable (s : State)

theorem State.withClock_frame (c : RaceClock) : Frame [.clock] s (s.withClock c) := by
  intro b hb
  cases b <;> first | rfl | exact absurd (by decide) hb

theorem State.withIntake_frame (p : Port) (m : MatIntake) : Frame [.intake] s (s.withIntake p m) := by
  intro b hb
  cases b <;> first | rfl | exact absurd (by decide) hb

theorem State.withAlign_frame (p : Port) (a : Alignment) : Frame [.align] s (s.withAlign p a) := by
  intro b hb
  cases b <;> first | rfl | exact absurd (by decide) hb

theorem State.withPassage_frame (u : PassageUnit) : Frame [.passage] s (s.withPassage u) := by
  intro b hb
  cases b <;> first | rfl | exact absurd (by decide) hb

theorem State.withPark_frame (l : List ParkEntry) : Frame [.park] s (s.withPark l) := by
  intro b hb
  cases b <;> first | rfl | exact absurd (by decide) hb

theorem State.withStore_frame (x : SettingsStore) : Frame [.store] s (s.withStore x) := by
  intro b hb
  cases b <;> first | rfl | exact absurd (by decide) hb

theorem State.putRunner_frame (r : Runner) : Frame [.runners] s (s.putRunner r) := by
  intro b hb
  cases b <;> first | rfl | exact absurd (by decide) hb

theorem State.transmit_frame (m : Sent) : Frame [] s (s.transmit m) := fun b _ => by cases b <;> rfl

theorem State.takePlace_frame (p : Point) (cr : Crossing) : Frame [.runners] s (s.takePlace p cr).1 := by
  rw [State.takePlace_eq]
  intro b hb
  cases b <;> first | rfl | exact absurd (by decide) hb

/-- Writing a control link without touching its command in progress. -/
theorem State.withLink_frame (l : Side) (x : ControlLink) (h : x.inProgress = (s.controlLink l).inProgress) :
    Frame [] s (s.withLink l x) := by
  intro b _
  cases b with
  | progress =>
    funext k
    show ((s.withLink l x).controlLink k).inProgress = (s.controlLink k).inProgress
    by_cases e : k = l
    · subst e
      rw [State.controlLink_withLink, h]
    · rw [State.controlLink_withLink_other _ _ e]
  | token | watchList | watchLog => cases l <;> rfl
  | _ => rfl

theorem State.hearControl_frame (l : Side) : Frame [] s (s.hearControl l) := s.withLink_frame l _ rfl

theorem State.withToken_frame (t : Token) (c : Option Side) : Frame [.token] s (s.withToken t c) := by
  intro b hb
  cases b with
  | token => exact absurd (by decide) hb
  | progress => funext l; cases l <;> rfl
  | _ => rfl

theorem State.count_frame (c : TallyClass) (q : Nat) : Frame [] s (s.count c q) :=
  (s.count_marks c q).frame (s.count_tallies c q)

theorem State.raise_frame (c : Condition) : Frame [] s (s.raise c) := (s.raise_marks c).frame (s.raise_tallies c)

theorem State.raiseTo_frame (l : Side) (c : Condition) : Frame [] s (s.raiseTo l c) :=
  (s.raiseTo_marks l c).frame (s.raiseTo_tallies l c)

theorem State.raiseIf_frame (b : Bool) (c : Condition) : Frame [] s (s.raiseIf b c) :=
  (s.raiseIf_marks b c).frame (s.raiseIf_tallies b c)

theorem State.takeCrossing_frame (i : Incoming) (b : Bool) : Frame recordBlocks s (s.takeCrossing i b) :=
  (s.takeCrossing_records i b).frame ((keptByRecords_tallies _).takeCrossing i b rfl)
    ((keptByRecords_profiles _).takeCrossing i b rfl)

theorem keptByReads_tallies (x : Block.tallies.Value) : KeptByReads fun s => Block.tallies.read s = x where
  count s c q h := (s.count_tallies c q).trans h
  raise s c h := (s.raise_tallies c).trans h
  crossing _ i b h := (keptByRecords_tallies x).takeCrossing i b h
  intake _ _ _ h := h
  align _ _ _ h := h
  passage _ _ h := h
  transmit _ _ h := h

theorem keptByReads_profiles (x : Block.profiles.Value) : KeptByReads fun s => Block.profiles.read s = x where
  count s c q h := (keptByRecords_profiles x).count s c q h
  raise s c h := (keptByRecords_profiles x).raise s c h
  crossing _ i b h := (keptByRecords_profiles x).takeCrossing i b h
  intake _ _ _ h := h
  align _ _ _ h := h
  passage _ _ h := h
  transmit _ _ h := h

theorem State.creditCheck_frame (p : Port) : Frame [.intake] s (s.creditCheck p) := by
  simp only [State.creditCheck]
  split
  · exact (s.withIntake_frame p _).trans ((State.transmit_frame _ _).mono (by decide))
  · exact Frame.refl _ s

theorem State.returnCredit_frame (p : Port) : Frame [.intake] s (s.returnCredit p) := by
  unfold State.returnCredit
  split
  · exact (s.withIntake_frame p _).trans (State.creditCheck_frame _ p)
  · exact Frame.refl _ s

theorem State.takeReads_frame : Frame [.intake, .passage] s s.takeReads :=
  s.takeReads_takes.frame ((keptByReads_tallies _).takeReads rfl)

theorem State.closeCrossing_frame (p : Port) (x : Passage) : Frame recordBlocks s (s.closeCrossing p x) :=
  (s.closeCrossing_records p x).frame ((keptByReads_tallies _).toClosing.closeCrossing p x rfl)
    ((keptByReads_profiles _).toClosing.closeCrossing p x rfl)

theorem State.closeAll_frame (p : Port) (l : List Passage) : Frame recordBlocks s (s.closeAll p l) :=
  (s.closeAll_records p l).frame ((keptByReads_tallies _).toClosing.closeAll p l rfl) ((keptByReads_profiles _).toClosing.closeAll p l rfl)

theorem State.replay_frame (e : ParkEntry) : Frame recordBlocks s (s.replay e) :=
  (s.replay_records e).frame ((keptByReads_tallies _).replay e rfl) ((keptByReads_profiles _).replay e rfl)

theorem State.settleScreen_frame (k : ScreenNo) {o : ScreenOutcome} (h : o.screen.profile = s.screens[k].profile) :
    Frame [.screens] s (s.settleScreen k o) :=
  (s.settleScreen_display k o).frame (s.settleScreen_tallies k o) (s.settleScreen_profiles k h)

/-- Writing a screen without touching its profile. -/
theorem State.withScreen_frame (k : ScreenNo) {x : Screen} (h : x.profile = s.screens[k].profile) :
    Frame [.screens] s (s.withScreen k x) := by
  refine (s.withScreen_display k x).frame rfl ?_
  funext j
  show (s.withScreen k x).screens[j].profile = s.screens[j].profile
  by_cases e : j = k
  · subst e
    rw [State.withScreen_same, h]
  · rw [State.withScreen_other _ _ e]

theorem State.hearMat_frame (p : Port) : Frame [.intake] s (s.hearMat p) := by
  unfold State.hearMat
  split
  · exact s.withIntake_frame p _
  · exact Frame.refl _ s

end

end Sys2Proof.Machine

/-! The parts that each row of the table may write, and the proof that a command writes no others. -/

namespace Sys2Proof.Machine

set_option Elab.async false

/-- The parts that a command may write. -/
def writes : Instr → List Block
  | .powerOn => [.clock, .intake, .align, .passage, .course, .ports, .limits, .runners, .chipMap, .race, .park, .screens,
      .profiles, .token, .watchList, .watchLog, .progress, .tallies, .store, .startUp]
  | .stationReset _ => [.intake, .align, .passage, .race, .park, .screens, .token, .watchLog, .progress, .tallies, .store,
      .startUp]
  | .startUpEnd => [.clock, .intake, .passage, .runners, .race, .startUp]
  | .countedMillisecond | .refLoss | .refReturn | .stopClock .. | .gun .. => [.clock]
  | .matHello _ | .syncReport .. => [.intake, .align]
  | .read .. => [.intake, .passage]
  | .matSilenceDeadline _ => [.intake]
  | .staleDeadline _ => [.align]
  | .readCompletion => [.intake, .passage, .runners, .park, .screens, .watchLog]
  | .closeDeadline .. => [.passage, .runners, .park, .screens, .watchLog]
  | .dueDeadline _ | .lineExpiry .. | .screenHello _ | .frameRequest .. | .holdDeadline _ | .screenSilenceDeadline _ =>
    [.screens]
  | .controlSilenceDeadline _ | .claim .. | .seize .. | .release .. | .pass .. => [.token]
  | .readWatchLog .. => [.watchLog]
  | .setWatch .. => [.watchList]
  | .startClock .. => [.clock, .align, .passage]
  | .setPoint .. => [.course]
  | .clearPoint .. => [.course, .runners, .park]
  | .setPort .. => [.ports, .passage, .runners, .park, .screens, .watchLog]
  | .setLimits .. => [.limits, .align, .passage, .runners, .park, .screens, .watchLog]
  | .setProfile .. => [.screens, .profiles]
  | .register .. | .bind .. => [.runners, .chipMap, .park, .screens, .watchLog]
  | .remove .. => [.runners, .chipMap]
  | .setName .. | .amend .. | .amendClear .. | .accept .. | .withdraw .. | .reinstate .. => [.runners]
  | .disqualify .. => [.runners, .screens]
  | .discard .. => [.park]
  | .setTally .. => [.tallies]
  | .store .. | .eraseCompletion | .writeCompletion => [.store]
  | .raceReset .. => [.clock, .intake, .align, .passage, .race, .park, .screens, .watchLog, .progress]
  | .raceResetCompletion => [.intake, .passage, .runners, .race, .progress]
  | .runnerRecordClearing _ => [.runners, .race]
  | _ => []

variable {s : State}

/-! ## The commands of the mat ports -/

theorem State.acceptRead_frame (p : Port) (lost : Nat) (seq : Byte) (x : IntakeRead) :
    Frame [.intake, .passage] s (s.acceptRead p lost seq x) := by
  have k : ∀ m c, Frame [.intake] s (((s.countTimes .readLost p lost).withIntake p m).count c p) := fun m c =>
    ((((s.countTimes_marks _ _ _).frame ((keptByReads_tallies _).countTimes _ _ _ rfl)).mono (by decide)).trans
      (State.withIntake_frame _ p m)).trans ((State.count_frame _ c p).mono (by decide))
  simp only [State.acceptRead]
  split
  · exact ((k _ _).trans (State.creditCheck_frame _ p)).mono (by decide)
  · refine Frame.trans ?_ (State.takeReads_frame _)
    split
    · exact (k _ _).mono (by decide)
    · exact ((k _ _).trans (State.creditCheck_frame _ p)).mono (by decide)

theorem State.classifyRead_frame (p : Port) (seq : Byte) (x : IntakeRead) :
    Frame [.intake, .passage] s (s.classifyRead p seq x) := by
  simp only [State.classifyRead]
  split_ifs
  · exact ((s.count_frame _ _).trans (State.raise_frame _ _)).mono (by decide)
  · exact State.acceptRead_frame _ _ _ _
  · exact (s.count_frame _ _).mono (by decide)

theorem State.takeReport_frame (p : Port) (d : Word32) : Frame [.align] s (s.takeReport p d) := by
  have taken : ∀ a c, Frame [.align] s ((s.withAlign p a).count c p) := fun a c =>
    (s.withAlign_frame p a).trans ((State.count_frame _ _ _).mono (by decide))
  have appended : ∀ a b, Frame [.align] s (((s.withAlign p a).count .syncAccepted p).raiseIf b .driftLimit) := fun a b =>
    (taken a _).trans ((State.raiseIf_frame _ _ _).mono (by decide))
  simp only [State.takeReport]
  split
  · exact (s.count_frame _ _).mono (by decide)
  · split
    · exact appended _ _
    · split_ifs
      · exact (s.count_frame _ _).mono (by decide)
      · exact taken _ _
      · exact appended _ _

theorem State.goStale_frame (p : Port) : Frame [.align] s (s.goStale p) :=
  (s.withAlign_frame p _).trans ((State.raise_frame _ _).mono (by decide))

theorem State.moveStale_frame (p : Port) : Frame [.align] s (s.moveStale p) := by
  simp only [State.moveStale]
  split
  · split
    · exact State.goStale_frame p
    · exact s.withAlign_frame p _
  · exact Frame.refl _ s

theorem State.discardFrame_frame (link : LinkId) : Frame [] s (s.discardFrame link) := by
  cases link with
  | mat p => exact s.count_frame _ p
  | screen k => exact Frame.refl _ s
  | control l => exact Frame.refl _ s

/-- The parts that closing a passage may write. -/
abbrev closingBlocks : List Block := .passage :: recordBlocks

theorem State.closePassage_frame (p : Port) (x : Passage) : Frame closingBlocks s (s.closePassage p x) :=
  ((s.withPassage_frame _).mono (by decide)).trans ((State.closeCrossing_frame _ p x).mono (by decide))

theorem State.closeOverdue_frame (p : Port) : Frame closingBlocks s (s.closeOverdue p) :=
  ((s.withPassage_frame _).mono (by decide)).trans ((State.closeAll_frame _ p _).mono (by decide))

theorem State.clearPassages_frame (p : Port) (discard : Bool) : Frame closingBlocks s (s.clearPassages p discard) := by
  simp only [State.clearPassages]
  split
  · exact (s.withPassage_frame _).mono (by decide)
  · exact ((s.withPassage_frame _).mono (by decide)).trans ((State.closeAll_frame _ p _).mono (by decide))

theorem State.resetHeld_frame (p : Port) : Frame [.passage] s (s.resetHeld p) := by
  unfold State.resetHeld
  split
  · split
    · exact s.withPassage_frame _
    · exact Frame.refl _ s
  · exact Frame.refl _ s

theorem State.forceOldest_frame (p : Port) : Frame closingBlocks s (s.forceOldest p) := by
  unfold State.forceOldest
  split
  · exact Frame.refl _ s
  · exact (((s.withPassage_frame _).mono (by decide)).trans ((State.closeCrossing_frame _ p _).mono (by decide))).trans
      ((State.count_frame _ _ _).mono (by decide))

theorem State.applyRead_frame (h : HeldRead) : Frame closingBlocks s (s.applyRead h) := by
  unfold State.applyRead
  split
  · exact (s.withPassage_frame _).mono (by decide)
  · split
    · exact (s.withPassage_frame _).mono (by decide)
    · exact (State.forceOldest_frame _).trans ((State.withPassage_frame _ _).mono (by decide))

theorem State.handOnRead_frame (h : HeldRead) : Frame recordBlocks s (s.handOnRead h) := by
  unfold State.handOnRead
  split
  · exact (State.takeCrossing_frame _ _ _).trans ((State.count_frame _ _ _).mono (by decide))
  · exact Frame.refl _ s

theorem State.finishRead_frame (h : HeldRead) : Frame closingBlocks s (s.finishRead h) := by
  unfold State.finishRead
  split
  · exact State.applyRead_frame h
  · exact (State.handOnRead_frame h).mono (by decide)
  · exact Frame.refl _ s

theorem State.closeTouched_frame (h : HeldRead) : Frame closingBlocks s (s.closeTouched h) := by
  unfold State.closeTouched
  split
  · split
    · split
      · exact State.closePassage_frame _ _
      · exact Frame.refl _ s
    · exact Frame.refl _ s
  · exact Frame.refl _ s

/-! ## The own handling of the commands of the control links -/

/-- A verdict writes at most the parts `bs` of the state `s` that it was given. -/
abbrev Verdict.Writes (bs : List Block) (s : State) (v : Verdict) : Prop := v.Keeps (Frame bs s)

theorem writes_ready {bs : List Block} {v : Verdict} (h : v.Writes bs s) : (s.unlessResetting v).Writes bs s :=
  State.unlessResetting_keeps fun _ => h

theorem State.withRunners_frame (rs : List Runner) : Frame [.runners] s
    (s.withRegistry { s.registry with runners := rs }) := by
  intro b hb
  cases b <;> first | rfl | exact absurd (by decide) hb

theorem State.mapChip_frame (chip : Word32) (bib : Half) : Frame [.chipMap] s (s.mapChip chip bib) := by
  intro b hb
  cases b <;> first | rfl | exact absurd (by decide) hb

theorem State.dropBib_frame (bib : Half) : Frame [.screens] s (s.dropBib bib) := by
  unfold State.dropBib
  generalize List.finRange 8 = ks
  induction ks generalizing s with
  | nil => exact Frame.refl _ s
  | cons k ks ih => exact (s.settleScreen_frame k (Screen.dropBib_profile _ _ _)).trans ih

theorem State.unparkAndReplay_frame (e : Option ParkEntry) : Frame recordBlocks s (s.unparkAndReplay e) := by
  cases e with
  | none => exact Frame.refl _ s
  | some e => exact ((s.withPark_frame _).mono (by decide)).trans (State.replay_frame _ e)

theorem State.raiseOverToken_frame (t : Token) (c : Option Side) (l : Side) (d : Condition) :
    Frame [.token] s ((s.withToken t c).raiseTo l d) :=
  (s.withToken_frame t c).trans ((State.raiseTo_frame _ l d).mono (by decide))

theorem State.giveUpToken_frame (l : Side) : Frame [.token] s (s.giveUpToken l) := by
  unfold State.giveUpToken
  split
  · exact State.raiseOverToken_frame _ _ _ _
  · exact s.withToken_frame _ _

theorem claimToken_frame (l : Side) : (claimToken l s).Writes [.token] s := by
  unfold claimToken
  split_ifs
  · exact s.withToken_frame _ _
  · exact Frame.refl _ s
  · exact State.raiseOverToken_frame _ _ _ _

theorem seizeToken_frame (l : Side) : (seizeToken l s).Writes [.token] s := by
  cases l with
  | b => trivial
  | a =>
    simp only [seizeToken]
    split
    · exact s.withToken_frame _ _
    · exact Frame.refl _ s
    · exact State.raiseOverToken_frame _ _ _ _

theorem releaseToken_frame (l : Side) : (releaseToken l s).Writes [.token] s := by
  unfold releaseToken
  split_ifs
  · exact State.giveUpToken_frame l
  · exact s.withToken_frame _ _
  · trivial

theorem passToken_frame (l : Side) : (passToken l s).Writes [.token] s :=
  Verdict.keeps_ite (fun _ => State.raiseOverToken_frame _ _ _ _) fun _ => trivial

theorem State.markLimit_frame : Frame [.clock] s s.markLimit := by
  unfold State.markLimit
  split
  · exact (s.withClock_frame _).trans ((State.raise_frame _ _).mono (by decide))
  · exact Frame.refl _ s

theorem State.drivePulse_frame : Frame [.clock] s s.drivePulse := by
  unfold State.drivePulse
  split
  · exact (s.withClock_frame _).trans ((State.transmit_frame _ _).mono (by decide))
  · exact Frame.refl _ s

theorem State.reachValue_frame (v : Nat) : Frame [.clock] s (s.reachValue v) :=
  ((s.withClock_frame _).trans State.markLimit_frame).trans State.drivePulse_frame

theorem State.clearAlignment_frame : Frame [.align] s s.clearAlignment := by
  intro b hb
  cases b <;> first | rfl | exact absurd (by decide) hb

theorem startClock_frame (preset : Option Word32) :
    (startClock preset s).Writes [.clock, .align, .passage] s := by
  refine writes_ready (Verdict.keeps_ite (fun _ => trivial) fun _ => ?_)
  exact ((((s.withClock_frame _).mono (by decide)).trans (State.clearAlignment_frame.mono (by decide))).trans
    ((State.withPassage_frame _ _).mono (by decide))).trans ((State.reachValue_frame _).mono (by decide))

theorem stopClock_frame : (stopClock s).Writes [.clock] s :=
  writes_ready (Verdict.keeps_ite (fun _ => s.withClock_frame _) fun _ => trivial)

theorem fireGun_frame (wave : Byte) (time : Option Word32) : (fireGun wave time s).Writes [.clock] s := by
  refine writes_ready ?_
  split
  · trivial
  · split_ifs
    · trivial
    · trivial
    · trivial
    · exact s.withClock_frame _

theorem setPoint_frame (point : Byte) (distance : Half) (policy : Byte) (display : Bool) :
    (setPoint point distance policy display s).Writes [.course] s := by
  refine writes_ready ?_
  split
  · split_ifs
    · trivial
    · intro b hb
      cases b <;> first | rfl | exact absurd (by decide) hb
    · trivial
  · trivial

theorem clearPoint_frame (point : Byte) : (clearPoint point s).Writes [.course, .runners, .park] s := by
  refine writes_ready ?_
  split
  · trivial
  · split_ifs
    · trivial
    · trivial
    · intro b hb
      cases b <;> first | rfl | exact absurd (by decide) hb

theorem State.assignPort_frame (p : Port) (point : Option Point) (allowance : Nat) :
    Frame (.ports :: closingBlocks) s (s.assignPort p point allowance) := by
  have k : Frame (.ports :: closingBlocks) s ((s.clearPassages p point.isNone).resetHeld p) :=
    ((State.clearPassages_frame p _).mono (by decide)).trans ((State.resetHeld_frame p).mono (by decide))
  refine k.trans fun b hb => ?_
  cases b <;> first | rfl | exact absurd (by decide) hb

theorem setPort_frame (port : Byte) (point : Option Byte) (allowance : Option Half) :
    (setPort port point allowance s).Writes (.ports :: closingBlocks) s := by
  refine writes_ready ?_
  split
  · split
    · trivial
    · split_ifs
      · trivial
      · trivial
      · exact State.assignPort_frame _ _ _
  · trivial

theorem State.foldl_frame {α : Type} {bs : List Block} {f : State → α → State} (h : ∀ t a, Frame bs t (f t a))
    (l : List α) : Frame bs s (l.foldl f s) := by
  induction l generalizing s with
  | nil => exact Frame.refl _ s
  | cons a l ih => exact (h s a).trans ih

theorem State.applyLimits_frame (m : Limits) :
    Frame (.limits :: .align :: closingBlocks) s (s.applyLimits m) := by
  have written : Frame (.limits :: .align :: closingBlocks) s (s.withRegistry { s.registry with limits := m }) := by
    intro b hb
    cases b <;> first | rfl | exact absurd (by decide) hb
  have overdue : ∀ t : State, Frame (.limits :: .align :: closingBlocks) t
      ((List.finRange 12).foldl (fun x p => x.closeOverdue p) t) := fun t =>
    State.foldl_frame (fun _ p => (State.closeOverdue_frame p).mono (by decide)) _
  have moved : ∀ t : State, Frame (.limits :: .align :: closingBlocks) t
      ((List.finRange 12).foldl (fun x p => x.moveStale p) t) := fun t =>
    State.foldl_frame (fun _ p => (State.moveStale_frame p).mono (by decide)) _
  simp only [State.applyLimits]
  split_ifs
  · exact (written.trans (overdue _)).trans (moved _)
  · exact written.trans (moved _)
  · exact written.trans (overdue _)
  · exact written

theorem setLimits_frame (a : LimitsArgs) :
    (setLimits a s).Writes [.limits, .align, .passage, .runners, .park, .screens, .watchLog] s := by
  refine writes_ready ?_
  split
  · trivial
  · exact State.applyLimits_frame _

theorem setProfile_frame (screen : Byte) (a : ProfileArgs) : (setProfile screen a s).Writes [.screens, .profiles] s := by
  have h : ∀ k x, Frame [.screens, .profiles] s ((s.withScreen k x).riseSequence k) := fun k x =>
    ((s.withScreen_display k x).trans (State.riseSequence_display _ k)).frame_except_profiles
      (State.riseSequence_tallies _ k)
  unfold setProfile
  split
  · exact h _ _
  · trivial

theorem registerRunner_frame (bib : Half) (wave : Byte) (chips : List Word32) (name : Option Name) :
    (registerRunner bib wave chips name s).Writes [.runners, .chipMap, .park, .screens, .watchLog] s := by
  refine writes_ready ?_
  split
  · trivial
  · split_ifs
    · trivial
    · trivial
    · trivial
    · trivial
    · trivial
    · exact ((State.withRunners_frame _).mono (by decide)).trans
        ((State.foldl_frame (fun _ chip => (State.mapChip_frame chip bib).mono (by decide)) chips).trans
          (State.foldl_frame (fun _ _ => (State.unparkAndReplay_frame _).mono (by decide)) chips))

theorem removeRunner_frame (bib : Half) : (removeRunner bib s).Writes [.runners, .chipMap] s := by
  refine writes_ready (Verdict.keeps_ite (fun _ => trivial) fun _ => ?_)
  split
  · trivial
  · refine Verdict.keeps_ite (fun _ => trivial) fun _ => ?_
    intro b hb
    cases b <;> first | rfl | exact absurd (by decide) hb

theorem setName_frame (bib : Half) (name : Option Name) : (setName bib name s).Writes [.runners] s := by
  refine writes_ready (Verdict.keeps_ite (fun _ => trivial) fun _ => ?_)
  split
  · trivial
  · exact s.putRunner_frame _

theorem amendCrossing_frame (bib : Half) (point : Byte) (time : Word32) :
    (amendCrossing bib point time s).Writes [.runners] s :=
  State.correctAt_keeps fun _ _ _ _ => Verdict.keeps_ite (fun _ => trivial) fun _ =>
    Verdict.keeps_ite (fun _ => trivial) fun _ => (s.takePlace_frame _ _).trans (State.putRunner_frame _ _)

theorem clearCrossing_frame (bib : Half) (point : Byte) : (clearCrossing bib point s).Writes [.runners] s :=
  State.correctAt_keeps fun _ _ _ _ => Verdict.keeps_ite (fun _ => trivial) fun _ => s.putRunner_frame _

theorem acceptCrossing_frame (bib : Half) (point : Byte) : (acceptCrossing bib point s).Writes [.runners] s := by
  refine State.correctAt_keeps fun _ r p _ => ?_
  split
  · trivial
  · exact Verdict.keeps_ite (fun _ => trivial) fun _ => (s.takePlace_frame _ _).trans (State.putRunner_frame _ _)

theorem withdrawRunner_frame (bib : Half) : (withdrawRunner bib s).Writes [.runners] s :=
  State.correct_keeps fun _ _ _ => Verdict.keeps_ite (fun _ => s.putRunner_frame _) fun _ => trivial

theorem disqualifyRunner_frame (bib : Half) : (disqualifyRunner bib s).Writes [.runners, .screens] s :=
  State.correct_keeps fun _ _ _ => Verdict.keeps_ite (fun _ => trivial) fun _ =>
    ((s.putRunner_frame _).mono (by decide)).trans ((State.dropBib_frame bib).mono (by decide))

theorem reinstateRunner_frame (bib : Half) : (reinstateRunner bib s).Writes [.runners] s :=
  State.correct_keeps fun _ _ _ => Verdict.keeps_ite (fun _ => s.putRunner_frame _) fun _ => trivial

theorem bindChip_frame (chip : Word32) (bib : Half) :
    (bindChip chip bib s).Writes [.runners, .chipMap, .park, .screens, .watchLog] s := by
  refine writes_ready (Verdict.keeps_ite (fun _ => trivial) fun _ => ?_)
  split
  · trivial
  · refine Verdict.keeps_ite (fun _ => trivial) fun _ => Verdict.keeps_ite (fun _ => trivial) fun _ => ?_
    exact (((s.putRunner_frame _).mono (by decide)).trans ((State.mapChip_frame chip _).mono (by decide))).trans
      ((State.unparkAndReplay_frame _).mono (by decide))

theorem discardChip_frame (chip : Word32) : (discardChip chip s).Writes [.park] s :=
  writes_ready (Verdict.keeps_ite (fun _ => trivial) fun _ => Verdict.keeps_ite (fun _ => trivial) fun _ =>
    s.withPark_frame _)

theorem setTally_frame (tally cls : Byte) (qualifiers : List Byte) (limit : Option Word32) (stop : Bool) :
    (setTally tally cls qualifiers limit stop s).Writes [.tallies] s := by
  unfold setTally
  split
  · split
    · split_ifs
      · intro b hb
        cases b <;> first | rfl | exact absurd (by decide) hb
      · trivial
    · trivial
  · trivial

theorem freezeTallies_frame (triggers : Option (List Byte)) : (freezeTallies triggers s).Writes [] s := by
  have h : ∀ x y, Frame [] s (s.withTally { s.tally with frozen := x, triggers := y }) := fun x y b _ => by
    cases b <;> rfl
  unfold freezeTallies
  split
  · exact h _ _
  · split
    · trivial
    · exact h _ _

theorem clearTallies_frame : (clearTallies s).Writes [] s := by
  intro b _
  cases b with
  | tallies => funext i; simp [Block.read, State.withTally]
  | _ => rfl

theorem State.resetIntake_frame (p : Port) : Frame [.intake] s (s.resetIntake p) := by
  simp only [State.resetIntake]
  split
  · exact (s.withIntake_frame p _).trans ((State.transmit_frame _ _).mono (by decide))
  · exact s.withIntake_frame p _

theorem State.resetBlocks_frame : Frame [.clock, .align, .passage, .park, .screens, .watchLog] s s.resetBlocks := by
  intro b hb
  cases b with
  | profiles => funext k; simp [Block.read, State.resetBlocks, Screen.raceReset, Screen.emptied]
  | progress => funext l; cases l <;> rfl
  | clock | align | passage | park | screens | watchLog => exact absurd (by decide) hb
  | _ => rfl

theorem State.markReset_frame (r : Registry) (x : Option Progress) (l : Side)
    (h : Frame [.race] s (s.withRegistry r)) :
    Frame [.race, .progress] s ((s.withRegistry r).withLink l
      { (s.withRegistry r).controlLink l with inProgress := x }) := by
  refine (h.mono (by decide)).trans fun b hb => ?_
  cases b with
  | race | progress => exact absurd (by decide) hb
  | token | watchList | watchLog => cases l <;> rfl
  | _ => rfl

theorem beginRaceReset_frame (l : Side) (tag : Byte) : (beginRaceReset l tag s).Writes
    [.clock, .intake, .align, .passage, .race, .park, .screens, .watchLog, .progress] s := by
  refine writes_ready ?_
  have folded : Frame [.intake] s ((List.finRange 12).foldl (fun x p => x.resetIntake p) s) :=
    State.foldl_frame (fun _ p => State.resetIntake_frame p) _
  generalize (List.finRange 12).foldl (fun x p => x.resetIntake p) s = t at folded
  refine ((folded.mono (by decide)).trans (t.resetBlocks_frame.mono (by decide))).trans
    ((State.markReset_frame _ _ l fun b hb => ?_).mono (by decide))
  cases b <;> first | rfl | exact absurd (by decide) hb

theorem readWatchLog_frame (n : Byte) : (readWatchLog n s).Writes [.watchLog] s := by
  refine Verdict.keeps_ite (fun _ => ?_) fun _ => trivial
  intro b hb
  cases b with
  | watchLog => exact absurd (by decide) hb
  | progress => funext k; cases k <;> rfl
  | _ => rfl

theorem setWatch_frame (bibs : List Half) : (setWatch bibs s).Writes [.watchList] s := by
  refine Verdict.keeps_ite (fun _ => trivial) fun _ => Verdict.keeps_ite (fun _ => trivial) fun _ => ?_
  intro b hb
  cases b with
  | watchList => exact absurd (by decide) hb
  | progress => funext k; cases k <;> rfl
  | _ => rfl

/-- What the own handling of a command writes is among the parts of its row. -/
theorem ownHandling_frame (i : Instr) (s : State) : (ownHandling i s).Writes (writes i) s := by
  cases i
  case readRunner l tag bib =>
    refine writes_ready (Verdict.keeps_ite (fun _ => trivial) fun _ => ?_)
    split
    · trivial
    · exact Frame.refl _ s
  case readPort l tag port =>
    simp only [ownHandling, readPort]
    split
    · trivial
    · exact Frame.refl _ s
  case readScreen l tag screen =>
    simp only [ownHandling, readScreen]
    split
    · trivial
    · exact Frame.refl _ s
  case readParkList l tag start => exact Verdict.keeps_ite (fun _ => Frame.refl _ s) fun _ => trivial
  case readWatchLog l tag n => exact readWatchLog_frame n
  case ackConditions l tag conds =>
    simp only [ownHandling, ackConditions]
    split
    · trivial
    · exact s.withLink_frame l _ rfl
  case setMask l tag conds =>
    simp only [ownHandling, setMask]
    split
    · trivial
    · exact s.withLink_frame l _ rfl
  case setWatch l tag bibs => exact setWatch_frame bibs
  case store l tag =>
    exact Verdict.keeps_ite (fun _ => s.withStore_frame _) fun _ => trivial
  case thaw l tag => exact fun b _ => by cases b <;> rfl
  case restart l tag => exact fun b _ => by cases b <;> rfl
  case claim l tag => exact claimToken_frame l
  case seize l tag => exact seizeToken_frame l
  case release l tag => exact releaseToken_frame l
  case pass l tag => exact passToken_frame l
  case startClock l tag preset => exact startClock_frame preset
  case stopClock l tag => exact stopClock_frame
  case gun l tag wave time => exact fireGun_frame wave time
  case setPoint l tag point distance policy display => exact setPoint_frame point distance policy display
  case clearPoint l tag point => exact clearPoint_frame point
  case setPort l tag port point allowance => exact setPort_frame port point allowance
  case setLimits l tag limits => exact setLimits_frame limits
  case setProfile l tag screen profile => exact setProfile_frame screen profile
  case register l tag bib wave chips name => exact registerRunner_frame bib wave chips name
  case remove l tag bib => exact removeRunner_frame bib
  case setName l tag bib name => exact setName_frame bib name
  case amend l tag bib point time => exact amendCrossing_frame bib point time
  case amendClear l tag bib point => exact clearCrossing_frame bib point
  case accept l tag bib point => exact acceptCrossing_frame bib point
  case withdraw l tag bib => exact withdrawRunner_frame bib
  case disqualify l tag bib => exact disqualifyRunner_frame bib
  case reinstate l tag bib => exact reinstateRunner_frame bib
  case bind l tag chip bib => exact bindChip_frame chip bib
  case discard l tag chip => exact discardChip_frame chip
  case setTally l tag tally cls qualifiers limit stop => exact setTally_frame tally cls qualifiers limit stop
  case freeze l tag triggers => exact freezeTallies_frame triggers
  case clearTallies l tag => exact clearTallies_frame
  case raceReset l tag => exact beginRaceReset_frame l tag
  case status | readTallies | readConditions => exact Frame.refl _ s
  all_goals trivial

/-! ## Every command -/

theorem State.answerHeld_frame (k : ScreenNo) : Frame [.screens] s (s.answerHeld k) := by
  simp only [State.answerHeld]
  split
  · exact (s.withScreen_frame k (x := { s.screens[k] with held := none }) rfl).trans
      ((State.transmit_frame _ _).mono (by decide))
  · exact Frame.refl _ s

theorem State.answerRequest_frame (k : ScreenNo) (last : Half) (wait : Bool) :
    Frame [.screens] s (s.answerRequest k last wait) := by
  simp only [State.answerRequest]
  split_ifs
  · exact (s.withScreen_frame k (x := { s.screens[k] with session := .answered }) rfl).trans
      ((State.transmit_frame _ _).mono (by decide))
  · exact (s.transmit_frame _).mono (by decide)
  · exact (s.transmit_frame _).mono (by decide)
  · exact s.withScreen_frame k rfl

theorem State.silenced_frame (s : State) (l : Side) : Frame [] s (s.silenced l) :=
  (s.withLink_frame l { s.controlLink l with link := .down, timer := none } rfl).trans (State.raise_frame _ _)

theorem State.dropShare_frame (l : Side) : Frame [.token] s (s.dropShare l) := by
  unfold State.dropShare
  split_ifs
  · exact (State.giveUpToken_frame l).trans ((State.raiseTo_frame _ _ _).mono (by decide))
  · exact s.withToken_frame _ _
  · exact Frame.refl _ s

theorem State.answerReset_frame : Frame [.progress] s s.answerReset := by
  unfold State.answerReset
  split
  · exact Frame.refl _ s
  · rename_i l _
    split
    · exact Frame.refl _ s
    · intro b hb
      cases b with
      | progress => exact absurd (by decide) hb
      | token | watchList | watchLog => cases l <;> rfl
      | _ => rfl

theorem State.stationReset_frame (rc : ResetCause) :
    Frame [.intake, .align, .passage, .race, .park, .screens, .token, .watchLog, .progress, .tallies, .store, .startUp] s
      (s.stationReset rc) := by
  intro b hb
  cases b with
  | profiles => funext k; simp [Block.read, State.stationReset, Screen.reset]
  | clock | course | ports | limits | runners | chipMap | watchList => rfl
  | _ => exact absurd (by decide) hb

/-- The state in which start-up has ended, without the conditions that this raises (R5, R85, R185). -/
def State.endStartUp (s : State) : State :=
  ({ s.withRegistry s.registry.finishReset with startUp := false }).withClock { s.clock with supervised := true }

/-- START_UP_END ends start-up, raises conditions and then takes reads, or it changes nothing. -/
theorem exec_startUpEnd_cases {s t : State} (h : exec .startUpEnd s = .next t) :
    t = s ∨ s.startUp = true ∧ ∃ u, Frame [] s.endStartUp u ∧ t = u.takeReads := by
  simp only [exec, execStartUpEnd, Host.Outcome.next.injEq] at h
  subst h
  split
  · refine .inr ⟨‹_›, _, fun b hb => ?_, rfl⟩
    have marked := ((s.withRegistry s.registry.finishReset).raise_frame .restarted).trans
      (State.raiseIf_frame _ (((s.withRegistry s.registry.finishReset).raise .restarted).control.resetCause == .powerOn &&
        !((s.withRegistry s.registry.finishReset).raise .restarted).store.valid) .storeInvalid)
    cases b with
    | clock => exact congrArg (fun c : RaceClock => { c with supervised := true }) marked.clock
    | startUp => rfl
    | _ => exact marked _ hb
  · exact .inl rfl

/-- Every command writes the parts of its row alone. -/
theorem exec_frame {i : Instr} {s t : State} (h : exec i s = .next t) : Frame (writes i) s t := by
  cases hsender : sender i with
  | some x =>
    obtain ⟨l, tag⟩ := x
    rw [exec_eq_takeCommand hsender] at h
    rcases takeCommand_cases h with ⟨_, rfl⟩ | ⟨_, ⟨_, rfl⟩ | ⟨_, _, _, rfl⟩ | ⟨_, _, rfl⟩⟩
    · exact Frame.refl _ _
    · exact ((s.hearControl_frame l).trans (State.transmit_frame _ _)).mono (List.nil_subset _)
    · exact ((s.hearControl_frame l).trans (State.transmit_frame _ _)).mono (List.nil_subset _)
    · have own := ownHandling_frame i (s.hearControl l)
      have heard := (s.hearControl_frame l).mono (List.nil_subset (writes i))
      cases hv : ownHandling i (s.hearControl l) with
      | refuse r => exact heard.trans ((State.transmit_frame _ _).mono (List.nil_subset _))
      | answer r d u =>
        rw [hv] at own
        exact (heard.trans own).trans ((State.transmit_frame _ _).mono (List.nil_subset _))
      | stay u =>
        rw [hv] at own
        exact heard.trans own
  | none =>
    cases i <;> first | (cases hsender; done) | skip
    case powerOn =>
      intro b hb
      cases b <;> exact absurd (by decide) hb
    case stationReset cause =>
      simp only [exec, execStationReset, Host.Outcome.next.injEq] at h
      subst h
      cases cause with
      | resetLine => exact State.stationReset_frame _
      | restart =>
        simp only
        split
        · exact State.stationReset_frame _
        · exact Frame.refl _ s
    case startUpEnd =>
      rcases exec_startUpEnd_cases h with rfl | ⟨_, u, hu, rfl⟩
      · exact Frame.refl _ _
      · have ended : Frame (writes .startUpEnd) s s.endStartUp := by
          intro b hb
          cases b with
          | runners | race | clock | intake | passage | startUp => exact absurd (by decide) hb
          | course | ports | limits | chipMap =>
            simp only [Block.read, State.endStartUp, State.withRegistry, State.withClock, Registry.finishReset]
            split <;> rfl
          | _ => rfl
        exact (ended.trans (hu.mono (by decide))).trans ((State.takeReads_frame _).mono (by decide))
    case countedMillisecond =>
      simp only [exec, execCountedMillisecond, Host.Outcome.next.injEq] at h
      subst h
      have ticked : Frame [.clock] s { s with elapsed := s.elapsed + 1 } := fun b _ => by cases b <;> rfl
      split
      · exact ticked.trans (State.reachValue_frame _)
      · exact ticked
    case refLoss =>
      simp only [exec, execRefLoss, Host.Outcome.next.injEq] at h
      subst h
      split
      · exact (s.withClock_frame _).trans ((State.raise_frame _ _).mono (by decide))
      · exact Frame.refl _ s
    case refReturn =>
      simp only [exec, execRefReturn, Host.Outcome.next.injEq] at h
      subst h
      split
      · exact s.withClock_frame _
      · exact Frame.refl _ s
    case matHello p =>
      show Frame [.intake, .align] s t
      have opened : ∀ t : State, Frame [.intake, .align] t (t.openSession p) := fun t =>
        ((t.withIntake_frame p _).trans ((State.transmit_frame _ _).mono (by decide))).mono (by decide)
      simp only [exec, execMatHello, Host.Outcome.next.injEq] at h
      subst h
      split
      · exact ((s.withAlign_frame p _).mono (by decide)).trans (opened _)
      · exact opened s
    case read p seq chip dtime level =>
      show Frame [.intake, .passage] s t
      simp only [exec, execRead, Host.Outcome.next.injEq] at h
      subst h
      split
      · exact ((s.hearMat_frame p).mono (by decide)).trans (State.classifyRead_frame p _ _)
      · exact (s.count_frame _ _).mono (by decide)
    case syncReport p d =>
      show Frame [.intake, .align] s t
      simp only [exec, execSyncReport, Host.Outcome.next.injEq] at h
      subst h
      exact ((s.hearMat_frame p).mono (by decide)).trans ((State.takeReport_frame p d).mono (by decide))
    case matSilenceDeadline p =>
      show Frame [.intake] s t
      simp only [exec, execMatSilenceDeadline, Host.Outcome.next.injEq] at h
      subst h
      split
      · exact (s.withIntake_frame p _).trans ((State.raise_frame _ _).mono (by decide))
      · exact Frame.refl _ s
    case discardedFrame link =>
      simp only [exec, execDiscardedFrame, Host.Outcome.next.injEq] at h
      subst h
      exact State.discardFrame_frame link
    case byteGapTimeout link =>
      simp only [exec, execByteGapTimeout, Host.Outcome.next.injEq] at h
      subst h
      exact State.discardFrame_frame link
    case staleDeadline p =>
      simp only [exec, execStaleDeadline, Host.Outcome.next.injEq] at h
      subst h
      split
      · exact State.goStale_frame p
      · exact Frame.refl _ s
    case readCompletion =>
      simp only [exec, execReadCompletion, Host.Outcome.next.injEq] at h
      subst h
      split
      · exact Frame.refl _ s
      · exact (((((State.finishRead_frame _).mono (by decide)).trans ((State.withPassage_frame _ _).mono (by decide))).trans
          ((State.returnCredit_frame _ _).mono (by decide))).trans ((State.closeTouched_frame _).mono (by decide))).trans
          ((State.takeReads_frame _).mono (by decide))
    case closeDeadline p chip =>
      show Frame closingBlocks s t
      simp only [exec, execCloseDeadline, Host.Outcome.next.injEq] at h
      subst h
      split
      · exact Frame.refl _ s
      · split
        · exact State.closePassage_frame _ _
        · exact Frame.refl _ s
    case dueDeadline k =>
      simp only [exec, execDueDeadline, Host.Outcome.next.injEq] at h
      subst h
      split
      · exact s.settleScreen_frame k rfl
      · exact Frame.refl _ s
    case lineExpiry k line =>
      simp only [exec, execLineExpiry, Host.Outcome.next.injEq] at h
      subst h
      split
      · exact s.settleScreen_frame k rfl
      · exact Frame.refl _ s
    case screenHello k =>
      simp only [exec, execScreenHello, Host.Outcome.next.injEq] at h
      subst h
      split
      · exact Frame.refl _ s
      · exact s.withScreen_frame k rfl
    case frameRequest k last wait =>
      show Frame [.screens] s t
      simp only [exec, execFrameRequest, Host.Outcome.next.injEq] at h
      subst h
      split
      · exact Frame.refl _ s
      · exact ((s.withScreen_frame k (x := { s.screens[k] with timer := some (s.elapsed + Config.screenSilence) }) rfl).trans
          (State.answerHeld_frame k)).trans (State.answerRequest_frame k last wait)
    case holdDeadline k =>
      simp only [exec, execHoldDeadline, Host.Outcome.next.injEq] at h
      subst h
      split
      · exact State.answerHeld_frame k
      · exact Frame.refl _ s
    case screenSilenceDeadline k =>
      show Frame [.screens] s t
      simp only [exec, execScreenSilenceDeadline, Host.Outcome.next.injEq] at h
      subst h
      split
      · exact (s.withScreen_frame k (x := { s.screens[k] with link := .down, held := none, timer := none }) rfl).trans
          ((State.raise_frame _ _).mono (by decide))
      · exact Frame.refl _ s
    case controlSilenceDeadline l =>
      show Frame [.token] s t
      simp only [exec, execControlSilenceDeadline, Host.Outcome.next.injEq] at h
      subst h
      split
      · exact ((s.silenced_frame l).mono (by decide)).trans (State.dropShare_frame l)
      · exact Frame.refl _ s
    case eraseCompletion =>
      simp only [exec, execEraseCompletion, Host.Outcome.next.injEq] at h
      subst h
      split
      · exact s.withStore_frame _
      · exact Frame.refl _ s
    case writeCompletion =>
      simp only [exec, execWriteCompletion, Host.Outcome.next.injEq] at h
      subst h
      split
      · exact (s.withStore_frame _).trans ((State.raise_frame _ _).mono (by decide))
      · exact Frame.refl _ s
    case raceResetCompletion =>
      simp only [exec, execRaceResetCompletion, Host.Outcome.next.injEq] at h
      subst h
      split
      · refine ((State.answerReset_frame.mono (by decide)).trans fun b hb => ?_).trans
          ((State.takeReads_frame _).mono (by decide))
        cases b <;> first | rfl | exact absurd (by decide) hb
      · exact Frame.refl _ s
    case runnerRecordClearing bib =>
      show Frame [.runners, .race] s t
      simp only [exec, execRunnerRecordClearing, Host.Outcome.next.injEq] at h
      subst h
      split
      · intro b hb
        cases b with
        | runners | race => exact absurd (by decide) hb
        | course | ports | limits | chipMap =>
          simp only [Block.read, State.withRegistry]
          split <;> rfl
        | _ => rfl
      · exact Frame.refl _ s

/-- The command may write one of the parts `bs`. -/
def touches (bs : List Block) (i : Instr) : Bool := (writes i).any fun b => bs.contains b

/-- A command that touches none of the parts `bs` leaves each of them. -/
theorem read_of_not_touches {bs : List Block} {i : Instr} {s t : State} (hi : touches bs i = false)
    (h : exec i s = .next t) (b : Block) (hb : b ∈ bs) : b.read t = b.read s := by
  refine exec_frame h b fun hw => ?_
  simp only [touches, List.any_eq_false, List.contains_iff_mem] at hi
  exact hi b hw hb

end Sys2Proof.Machine

/-! The clock and the sync histories (chapters 1 and 3): what the clock is once it took a value, which alignments are
sound, and the proof that every step keeps both. -/

namespace Sys2Proof.Machine

set_option Elab.async false

/-! ## The values the clock takes (R4, R7, R8) -/

/-- The clock once it took the value `v`: marked at its limit, with a pulse at a whole race second. -/
theorem State.reachValue_clock (s : State) (v : Nat) :
    (s.reachValue v).clock = { s.clock with
      value := v
      limitMark := s.clock.limitMark || decide (v = Config.maxRaceTime)
      latestPulse := if v % Config.pulsePeriod = 0 then some v else s.clock.latestPulse } := by
  have marked : (s.withClock { s.clock with value := v }).markLimit.clock =
      { s.clock with value := v, limitMark := s.clock.limitMark || decide (v = Config.maxRaceTime) } := by
    unfold State.markLimit
    split
    · rename_i h
      have hv : v = Config.maxRaceTime := h.1
      rw [(State.raise_marks _ _).clock, decide_eq_true hv, Bool.or_true]
      rfl
    · rename_i h
      have : (s.clock.limitMark || decide (v = Config.maxRaceTime)) = s.clock.limitMark := by
        cases hm : s.clock.limitMark with
        | true => rfl
        | false => simpa [State.now, hm] using h
      rw [this]
      rfl
  have hnow : (s.withClock { s.clock with value := v }).markLimit.now = v := by rw [State.now, marked]
  unfold State.reachValue State.drivePulse
  rw [hnow]
  split
  · rw [State.transmit_clock, State.withClock_clock, marked]
  · rw [marked]

/-- Counting up from a value below the limit keeps the clock sound (R1, R4). -/
theorem State.tick_clock_sound {s : State} (h : s.clock.Sound)
    (hlt : s.clock.value < Config.maxRaceTime) : (s.reachValue (s.clock.value + 1)).clock.Sound := by
  obtain ⟨hmax, hmark, hlimit, hpulse, hguns, hgunned, hlock⟩ := h
  have hclear : s.clock.limitMark = false := by
    cases hm : s.clock.limitMark with
    | false => rfl
    | true => exact absurd (hmark hm) hlt.ne
  rw [State.reachValue_clock]
  refine ⟨hlt, ?_, ?_, ?_, fun w t ht => (hguns w t ht).trans (Nat.le_succ _), hgunned, hlock⟩
  · simp [hclear]
  · exact fun _ hv => Bool.or_eq_true_iff.mpr (.inr (decide_eq_true hv))
  · intro t ht
    simp only at ht
    split at ht
    · cases ht; exact ⟨‹_›, le_rfl⟩
    · exact ⟨(hpulse t ht).1, (hpulse t ht).2.trans (Nat.le_succ _)⟩

/-! ## Sync histories (R35, R41, R42) -/

theorem Alignment.Rising.tail {h : List SyncRecord} (hr : Alignment.Rising h) : Alignment.Rising h.tail := by
  match h with
  | [] | [_] => trivial
  | _ :: _ :: _ => exact hr.2.2

/-- A record after the newest one joins a rising history. -/
theorem Alignment.Rising.concat {h : List SyncRecord} {r : SyncRecord} (hr : Alignment.Rising h)
    (hnew : ∀ n, h.getLast? = some n → n.pulse < r.pulse ∧ 0 < signedDiff r.dtime n.dtime) :
    Alignment.Rising (h ++ [r]) := by
  match h with
  | [] => trivial
  | [x] => exact ⟨(hnew x rfl).1, (hnew x rfl).2, trivial⟩
  | x :: y :: rest =>
    exact ⟨hr.1, hr.2.1, Alignment.Rising.concat hr.2.2 fun n hn => hnew n (by simpa using hn)⟩

theorem mem_appendRecord {h : List SyncRecord} {r x : SyncRecord} (hx : x ∈ appendRecord h r) : x ∈ h ∨ x = r := by
  unfold appendRecord at hx
  rcases List.mem_append.mp hx with hx | hx
  · refine .inl ?_
    split at hx
    · exact hx
    · exact List.mem_of_mem_tail hx
  · exact .inr (by simpa using hx)

theorem clampRate_bounds (v : Int) : -Config.rateLimit ≤ clampRate v ∧ clampRate v ≤ Config.rateLimit := by
  simp only [clampRate, Config.rateLimit]
  omega

theorem Alignment.reset_sound : Alignment.reset.Sound := by
  refine ⟨Nat.zero_le _, trivial, by decide, by decide, by decide, by decide⟩

theorem Alignment.restarted_sound (horizon : Nat) (r : SyncRecord) : (Alignment.restarted horizon r).Sound := by
  refine ⟨?_, trivial, ?_, ?_, ?_, ?_⟩ <;> simp [Alignment.restarted, Config.historySize, Config.rateLimit]

/-- A record after the newest one keeps the alignment sound (R39 to R42). -/
theorem Alignment.append_sound {a : Alignment} (h : a.Sound) (horizon : Nat) {r : SyncRecord}
    (hnew : ∀ n, a.newest = some n → n.pulse < r.pulse ∧ 0 < signedDiff r.dtime n.dtime) :
    (a.append horizon r).Sound := by
  obtain ⟨hlen, hrising, hlow, hhigh, -, -⟩ := h
  have rate : -Config.rateLimit ≤ (a.append horizon r).rate ∧ (a.append horizon r).rate ≤ Config.rateLimit := by
    rw [Alignment.append_eq]
    dsimp only
    split
    · exact clampRate_bounds _
    · exact ⟨hlow, hhigh⟩
  refine ⟨?_, ?_, rate.1, rate.2, by simp [Alignment.append], by simp [Alignment.append, appendRecord]⟩
  · simp only [Alignment.append, appendRecord, Config.historySize] at hlen ⊢
    split <;> simp <;> omega
  · simp only [Alignment.append, appendRecord]
    split
    · exact hrising.concat hnew
    · refine hrising.tail.concat fun n hn => hnew n ?_
      rw [List.getLast?_tail] at hn
      split at hn
      · exact nomatch hn
      · exact hn

/-- A SYNCED alignment that becomes STALE is sound (R42). -/
theorem Alignment.stale_sound {a : Alignment} (h : a.Sound) (hsync : a.sync = .synced) :
    { a with sync := .stale, staleDeadline := none }.Sound := by
  obtain ⟨hlen, hrising, hlow, hhigh, -, hempty⟩ := h
  refine ⟨hlen, hrising, hlow, hhigh, by simp, ?_⟩
  constructor
  · exact fun e => nomatch e
  · intro e
    rw [hsync] at hempty
    exact nomatch hempty.mpr e

theorem Alignment.moved_sound {a : Alignment} (h : a.Sound) (hsync : a.sync = .synced) (d : Nat) :
    { a with staleDeadline := some d }.Sound := by
  obtain ⟨hlen, hrising, hlow, hhigh, -, hempty⟩ := h
  exact ⟨hlen, hrising, hlow, hhigh, by simp [hsync], hempty⟩

/-! ## The alignments under the clock (R36) -/

theorem State.Aligned.of_eq {s t : State} (h : s.Aligned) (hc : t.clock = s.clock) (ha : t.align = s.align) :
    t.Aligned := by
  unfold State.Aligned
  rw [hc, ha]
  exact h

/-- A later latest pulse leaves every record at or before it. -/
theorem State.Aligned.of_pulse {s t : State} (h : s.Aligned) (ha : t.align = s.align)
    (hp : ∀ x, s.clock.latestPulse = some x → ∃ y, t.clock.latestPulse = some y ∧ x ≤ y) : t.Aligned := by
  intro p
  rw [ha]
  refine ⟨(h p).1, fun r hr => ?_⟩
  obtain ⟨x, hx, hle⟩ := (h p).2 r hr
  obtain ⟨y, hy, hxy⟩ := hp x hx
  exact ⟨y, hy, hle.trans hxy⟩

theorem State.Aligned.of_cleared {s : State} (h : ∀ p : Port, s.align[p] = Alignment.reset) : s.Aligned := by
  intro p
  rw [h p]
  exact ⟨Alignment.reset_sound, fun r hr => absurd hr (List.not_mem_nil)⟩

theorem State.Aligned.withAlign {s : State} (h : s.Aligned) (p : Port) {a : Alignment} (ha : a.Sound)
    (hr : ∀ r ∈ a.history, ∃ t, s.clock.latestPulse = some t ∧ r.pulse ≤ t) : (s.withAlign p a).Aligned := by
  intro q
  by_cases e : q = p
  · subst e
    rw [State.withAlign_same]
    exact ⟨ha, hr⟩
  · rw [State.withAlign_other _ _ e]
    exact h q

/-- A SYNC REPORT keeps the alignments under the clock: an appended record belongs to the latest pulse, which no record
is later than (R36 to R39). -/
theorem State.takeReport_aligned {s : State} (h : s.Aligned) (p : Port) (d : Word32) : (s.takeReport p d).Aligned := by
  have counted : ∀ {t : State} c, t.Aligned → (t.count c p).Aligned := fun c ht =>
    ht.of_eq (State.count_marks _ c p).clock (State.count_marks _ c p).align
  cases hpulse : s.reportPulse with
  | none => rw [State.takeReport_of_late d hpulse]; exact counted _ h
  | some t =>
    have hlatest : s.clock.latestPulse = some t := by
      unfold State.reportPulse at hpulse
      split at hpulse
      · exact (Option.filter_eq_some_iff.mp hpulse).1
      · exact nomatch hpulse
    by_cases hdup : ∃ n, s.align[p].newest = some n ∧ n.pulse = t
    · obtain ⟨n, hn, he⟩ := hdup
      rw [State.takeReport_of_duplicate d hpulse hn he]
      exact counted _ h
    by_cases hback : ∃ n, s.align[p].newest = some n ∧ signedDiff d n.dtime ≤ 0
    · obtain ⟨n, hn, hle⟩ := hback
      rw [State.takeReport_of_restart d hpulse hn (fun e => hdup ⟨n, hn, e⟩) hle]
      refine counted _ (h.withAlign p (Alignment.restarted_sound _ _) fun r hr => ⟨t, hlatest, ?_⟩)
      rw [List.mem_singleton.mp hr]
    · have hnew : ∀ n, s.align[p].newest = some n → n.pulse ≠ t ∧ 0 < signedDiff d n.dtime := fun n hn =>
        ⟨fun e => hdup ⟨n, hn, e⟩, not_le.mp fun hle => hback ⟨n, hn, hle⟩⟩
      have before : ∀ r ∈ s.align[p].history, r.pulse ≤ t := fun r hr => by
        obtain ⟨u, hu, hle⟩ := (h p).2 r hr
        rw [hlatest] at hu
        cases hu
        exact hle
      have after : ∀ n, s.align[p].newest = some n →
          n.pulse < t ∧ 0 < signedDiff d n.dtime := fun n hn =>
        ⟨lt_of_le_of_ne (before n (List.mem_of_getLast? hn)) (hnew n hn).1, (hnew n hn).2⟩
      rw [State.takeReport_of_append d hpulse hnew]
      have appended := h.withAlign p (Alignment.append_sound (h p).1 s.registry.limits.staleHorizon (r := ⟨t, d⟩) after)
        fun r hr => ⟨t, hlatest, (mem_appendRecord hr).elim (before r) fun e => by rw [e]⟩
      exact (counted .syncAccepted appended).of_eq (State.raiseIf_marks _ _ _).clock (State.raiseIf_marks _ _ _).align

/-- The records of a port are those of its history, whose sync state alone changes. -/
theorem State.goStale_aligned {s : State} (h : s.Aligned) (p : Port) (hsync : s.align[p].sync = .synced) :
    (s.goStale p).Aligned :=
  (h.withAlign p (Alignment.stale_sound (h p).1 hsync) (h p).2).of_eq (State.raise_marks _ _).clock
    (State.raise_marks _ _).align

theorem State.moveStale_aligned {s : State} (h : s.Aligned) (p : Port) : (s.moveStale p).Aligned := by
  simp only [State.moveStale]
  split
  · rename_i hsync _
    split
    · exact State.goStale_aligned h p hsync
    · exact h.withAlign p (Alignment.moved_sound (h p).1 hsync _) (h p).2
  · exact h

/-! ## Every command -/

/-- The clock and the alignments under it are sound. -/
def State.TimeSound (s : State) : Prop := s.clock.Sound ∧ s.Aligned

theorem State.TimeSound.of_eq {s t : State} (h : s.TimeSound) (hc : t.clock = s.clock) (ha : t.align = s.align) :
    t.TimeSound := ⟨hc ▸ h.1, h.2.of_eq hc ha⟩

theorem State.TimeSound.of_frame {s t : State} {bs : List Block} (h : s.TimeSound) (f : Frame bs s t)
    (hc : Block.clock ∉ bs := by decide) (ha : Block.align ∉ bs := by decide) : t.TimeSound :=
  h.of_eq (f.clock hc) (f.align ha)

/-- A clock at 0 without a pulse, a mark, a gun or a lock is sound. -/
theorem RaceClock.sound_of_zero {c : RaceClock} (hs : c.state = .stopped) (hv : c.value = 0) (hm : c.limitMark = false)
    (hp : c.latestPulse = none) (hg : c.guns = Vector.replicate 16 none) (hl : c.locked = false) : c.Sound := by
  have none_ : ∀ w : Wave, c.guns[w] = none := fun w => by rw [hg]; simp
  have noGun : ¬ c.gunned := fun ⟨w, hw⟩ => by rw [none_ w] at hw; exact nomatch hw
  refine ⟨by simp [hv], by simp [hm], by simp [hs], by simp [hp], fun w t ht => ?_, fun hw => absurd hw noGun, ?_⟩
  · rw [none_ w] at ht; exact nomatch ht
  · simp [hl, noGun]

/-- START CLOCK runs a stopped clock, which has no gun, from its preset (R2, R4, R7). -/
theorem startClock_timeSound {s : State} (h : s.TimeSound) (preset : Option Word32) :
    (startClock preset s).Keeps State.TimeSound := by
  refine State.unlessResetting_keeps fun _ => Verdict.keeps_ite (fun _ => trivial) fun hstopped => ?_
  obtain ⟨⟨-, -, -, -, hguns, hgunned, hlock⟩, -⟩ := h
  have hle : (preset.map (·.toNat)).getD 0 ≤ Config.maxRaceTime := by
    cases preset with
    | none => exact Nat.zero_le _
    | some x => exact Nat.le_of_lt_succ x.isLt
  have noGun : ∀ w : Wave, s.clock.guns[w] = none := fun w => by
    by_contra hne
    exact hstopped (by simp [State.clockRuns, hgunned ⟨w, Option.isSome_iff_ne_none.mpr hne⟩])
  generalize (preset.map (·.toNat)).getD 0 = v at hle ⊢
  refine ⟨?_, State.Aligned.of_cleared fun p => ?_⟩
  · rw [State.reachValue_clock]
    refine ⟨hle, ?_, fun _ hv => ?_, ?_, fun w t ht => ?_, fun _ => rfl, hlock⟩
    · intro hm
      rcases Bool.or_eq_true_iff.mp hm with hm | hm
      · exact le_antisymm hle (of_decide_eq_true (Bool.and_eq_true_iff.mp hm).2)
      · exact of_decide_eq_true hm
    · rw [decide_eq_true hv, Bool.or_true]
    · intro t ht
      simp only at ht
      split at ht
      · cases ht; exact ⟨‹_›, le_rfl⟩
      · exact nomatch ht
    · exact absurd ht (by simp [State.voidPassages, State.withPassage, State.clearAlignment, State.withClock, noGun w,
        -Fin.getElem_fin])
  · rw [(State.reachValue_frame v).align]
    simp [State.voidPassages, State.withPassage, State.clearAlignment]

theorem stopClock_timeSound {s : State} (h : s.TimeSound) : (stopClock s).Keeps State.TimeSound := by
  refine State.unlessResetting_keeps fun _ => Verdict.keeps_ite (fun hstop => ?_) fun _ => trivial
  obtain ⟨⟨hmax, hmark, -, hpulse, hguns, -, hlock⟩, haligned⟩ := h
  have noGun := (State.noGun_iff s).mp (Bool.and_eq_true _ _ ▸ hstop).2
  refine ⟨⟨hmax, hmark, nofun, hpulse, hguns, fun ⟨w, hw⟩ => ?_, hlock⟩, haligned⟩
  rw [State.withClock_clock] at hw
  rw [noGun w] at hw
  exact nomatch hw

/-- GUN gives a running clock a gun time that is not later than now, and the lock with it (R10, R12). -/
theorem fireGun_timeSound {s : State} (h : s.TimeSound) (wave : Byte) (time : Option Word32) :
    (fireGun wave time s).Keeps State.TimeSound := by
  refine State.unlessResetting_keeps fun _ => ?_
  split
  · trivial
  rename_i w _
  refine Verdict.keeps_ite (fun _ => trivial) fun hrun => Verdict.keeps_ite (fun _ => trivial) fun hle =>
    Verdict.keeps_ite (fun _ => trivial) fun _ => ?_
  obtain ⟨⟨hmax, hmark, hlimit, hpulse, hguns, -, -⟩, haligned⟩ := h
  generalize (time.map (·.toNat)).getD s.now = t at hle ⊢
  have fired : (s.clock.guns.set w (some t))[w] = some t := by simp
  refine ⟨⟨hmax, hmark, hlimit, hpulse, fun x u hu => ?_, fun _ => by simpa [State.clockRuns] using hrun,
    iff_of_true rfl ⟨w, by rw [State.withClock_clock, fired]; rfl⟩⟩, haligned⟩
  simp only [State.withClock_clock, Fin.getElem_fin, Vector.getElem_set] at hu
  split at hu
  · cases hu; exact not_lt.mp hle
  · exact hguns x u hu

theorem State.resetBlocks_timeSound (s : State) : s.resetBlocks.TimeSound :=
  ⟨RaceClock.sound_of_zero rfl rfl rfl rfl rfl rfl,
    State.Aligned.of_cleared fun p => by simp [State.resetBlocks, State.clearAlignment]⟩

theorem beginRaceReset_timeSound {s : State} (l : Side) (tag : Byte) : (beginRaceReset l tag s).Keeps State.TimeSound := by
  refine State.unlessResetting_keeps fun _ => ?_
  generalize (List.finRange 12).foldl (fun x p => x.resetIntake p) s = t
  exact t.resetBlocks_timeSound.of_eq rfl rfl

/-- SET LIMITS changes alignments by moving their stale deadlines alone (R43). -/
theorem setLimits_timeSound {s : State} (h : s.TimeSound) (a : LimitsArgs) : (setLimits a s).Keeps State.TimeSound := by
  refine State.unlessResetting_keeps fun _ => ?_
  split
  · trivial
  rename_i m _
  have overdue : ∀ (ps : List Port) {t : State}, t.TimeSound → (ps.foldl (fun x p => x.closeOverdue p) t).TimeSound :=
    fun ps t ht => ht.of_frame (State.foldl_frame (fun _ p => State.closeOverdue_frame p) ps)
  have moved : ∀ (ps : List Port) {t : State}, t.TimeSound → (ps.foldl (fun x p => x.moveStale p) t).TimeSound := by
    intro ps
    induction ps with
    | nil => exact fun ht => ht
    | cons p ps ih =>
      intro t ht
      have clock : (t.moveStale p).clock = t.clock := (State.moveStale_frame p).clock
      exact ih ⟨clock ▸ ht.1, State.moveStale_aligned ht.2 p⟩
  have written : (s.withRegistry { s.registry with limits := m }).TimeSound := h
  simp only [State.applyLimits, Verdict.ok, Verdict.Keeps]
  split_ifs
  · exact moved _ (overdue _ written)
  · exact moved _ written
  · exact overdue _ written
  · exact written

/-- Every command keeps the clock and the alignments. -/
theorem exec_timeSound (i : Instr) (s t : State) (hs : s.TimeSound) (h : exec i s = .next t) : t.TimeSound := by
  have hear : ∀ (l : Side) (u : State), u.TimeSound → (u.hearControl l).TimeSound := fun l u hu => hu.of_frame (u.hearControl_frame l)
  have send : ∀ (u : State) (m : Sent), u.TimeSound → (u.transmit m).TimeSound := fun u m hu => hu
  cases hw : touches [.clock, .align] i with
  | false =>
    exact hs.of_eq (read_of_not_touches hw h .clock (by decide)) (read_of_not_touches hw h .align (by decide))
  | true =>
    cases i <;> first | exact Bool.noConfusion hw | skip
    case powerOn =>
      cases h
      exact ⟨RaceClock.sound_of_zero rfl rfl rfl rfl rfl rfl, State.Aligned.of_cleared fun p => by simp [State.reset]⟩
    case stationReset cause =>
      have reset : ∀ rc, (s.stationReset rc).TimeSound := fun rc =>
        ⟨hs.1, State.Aligned.of_cleared fun p => by simp [State.stationReset, State.clearAlignment]⟩
      simp only [exec, execStationReset, Host.Outcome.next.injEq] at h
      subst h
      cases cause with
      | resetLine => exact reset _
      | restart =>
        simp only
        split
        · exact reset _
        · exact hs
    case startUpEnd =>
      rcases exec_startUpEnd_cases h with rfl | ⟨_, u, hu, rfl⟩
      · exact hs
      · have ended : s.endStartUp.TimeSound := hs
        exact (ended.of_frame hu).of_frame u.takeReads_frame
    case countedMillisecond =>
      simp only [exec, execCountedMillisecond, Host.Outcome.next.injEq] at h
      subst h
      split
      · rename_i hcond
        simp only [Bool.and_eq_true] at hcond
        have clock := State.tick_clock_sound (s := { s with elapsed := s.elapsed + 1 }) hs.1 (of_decide_eq_true hcond.2)
        refine ⟨clock, hs.2.of_pulse (State.reachValue_frame _).align fun x hx => ?_⟩
        rw [State.reachValue_clock]
        dsimp only
        split
        · exact ⟨_, rfl, ((hs.1.2.2.2.1 x hx).2).trans (Nat.le_succ _)⟩
        · exact ⟨x, hx, le_rfl⟩
      · exact hs
    case refLoss =>
      simp only [exec, execRefLoss, Host.Outcome.next.injEq] at h
      subst h
      split
      · exact State.TimeSound.of_frame (s := s.withClock { s.clock with ref := .lost }) hs (State.raise_frame _ _)
      · exact hs
    case refReturn =>
      simp only [exec, execRefReturn, Host.Outcome.next.injEq] at h
      subst h
      split
      · exact hs
      · exact hs
    case matHello p =>
      simp only [exec, execMatHello, Host.Outcome.next.injEq] at h
      subst h
      split
      · exact ⟨hs.1, hs.2.withAlign p Alignment.reset_sound fun r hr => absurd hr (List.not_mem_nil)⟩
      · exact hs
    case syncReport p d =>
      have heard := hs.of_frame (s.hearMat_frame p)
      have clock : ((s.hearMat p).takeReport p d).clock = (s.hearMat p).clock := (State.takeReport_frame p d).clock
      cases h
      exact ⟨clock ▸ heard.1, State.takeReport_aligned heard.2 p d⟩
    case staleDeadline p =>
      simp only [exec, execStaleDeadline, Host.Outcome.next.injEq] at h
      subst h
      split
      · rename_i hcond
        simp only [Bool.and_eq_true, beq_iff_eq] at hcond
        have clock : (s.goStale p).clock = s.clock := (State.goStale_frame p).clock
        exact ⟨clock ▸ hs.1, State.goStale_aligned hs.2 p hcond.1.2⟩
      · exact hs
    case startClock l tag preset =>
      exact exec_keeps_of_handling (i := .startClock l tag preset) rfl (hear l) send (fun u hu _ _ => startClock_timeSound hu preset) hs h
    case stopClock l tag =>
      exact exec_keeps_of_handling (i := .stopClock l tag) rfl (hear l) send (fun u hu _ _ => stopClock_timeSound hu) hs h
    case gun l tag wave time =>
      exact exec_keeps_of_handling (i := .gun l tag wave time) rfl (hear l) send (fun u hu _ _ => fireGun_timeSound hu wave time) hs h
    case setLimits l tag a =>
      exact exec_keeps_of_handling (i := .setLimits l tag a) rfl (hear l) send (fun u hu _ _ => setLimits_timeSound hu a) hs h
    case raceReset l tag =>
      exact exec_keeps_of_handling (i := .raceReset l tag) rfl (hear l) send (fun u _ _ _ => beginRaceReset_timeSound l tag) hs h

/-- Settles O53: the queue is no part of the invariant, and every command keeps it. -/
theorem stepKeepsClockAndAlignment : Obligations.StepKeepsClockAndAlignment := by
  unfold Obligations.StepKeepsClockAndAlignment
  exact fun s t hclock haligned h => step_keeps (P := State.TimeSound) (fun _ _ hs => hs) exec_timeSound ⟨hclock, haligned⟩ h

end Sys2Proof.Machine

/-! Properties that do not read the Registry or the Park List, over the commands that close passages or replay parked
crossings. -/

namespace Sys2Proof.Machine

set_option Elab.async false

namespace KeptByReads

variable {P : State → Prop} (K : KeptByReads P) {s : State}
include K

/-- SET PORT writes the assignments of the Registry alone. -/
theorem setPort (ports : ∀ s v, P s → P (s.withRegistry { s.registry with ports := v })) (port : Byte)
    (point : Option Byte) (allowance : Option Half) (h : P s) : (setPort port point allowance s).Keeps P := by
  refine State.unlessResetting_keeps fun _ => ?_
  split
  · split
    · trivial
    · exact Verdict.keeps_ite (fun _ => trivial) fun _ => Verdict.keeps_ite (fun _ => trivial) fun _ =>
        ports _ _ (K.resetHeld _ (K.toClosing.clearPassages _ _ h))
  · trivial

/-- SET LIMITS writes the limits of the Registry alone. -/
theorem setLimits (limits : ∀ s m, P s → P (s.withRegistry { s.registry with limits := m })) (a : LimitsArgs)
    (h : P s) : (setLimits a s).Keeps P := by
  refine State.unlessResetting_keeps fun _ => ?_
  split
  · trivial
  rename_i m _
  have overdue : ∀ (ps : List Port) {t : State}, P t → P (ps.foldl (fun x p => x.closeOverdue p) t) := fun ps => by
    induction ps with
    | nil => exact fun ht => ht
    | cons p ps ih => exact fun ht => ih (K.toClosing.closeOverdue p ht)
  have moved : ∀ (ps : List Port) {t : State}, P t → P (ps.foldl (fun x p => x.moveStale p) t) := fun ps => by
    induction ps with
    | nil => exact fun ht => ht
    | cons p ps ih => exact fun ht => ih (K.moveStale p ht)
  have written := limits s m h
  simp only [State.applyLimits, Verdict.ok, Verdict.Keeps]
  split_ifs
  · exact moved _ (overdue _ written)
  · exact moved _ written
  · exact overdue _ written
  · exact written

variable (registry : ∀ s x, P s → P (s.withRegistry x)) (park : ∀ s l, P s → P (s.withPark l))
include registry park

omit registry in
theorem unparkAndReplay (e : Option ParkEntry) (h : P s) : P (s.unparkAndReplay e) := by
  cases e with
  | none => exact h
  | some e => exact K.replay e (park _ _ h)

theorem registerRunner (bib : Half) (wave : Byte) (chips : List Word32) (name : Option Name) (h : P s) :
    (registerRunner bib wave chips name s).Keeps P := by
  refine State.unlessResetting_keeps fun _ => ?_
  split
  · trivial
  have mapped : ∀ (cs : List Word32) {t : State}, P t → P (cs.foldl (fun x c => x.mapChip c bib) t) := fun cs => by
    induction cs with
    | nil => exact fun ht => ht
    | cons c cs ih => exact fun ht => ih (registry _ _ ht)
  have replayed : ∀ (cs : List Word32) {t : State}, P t → P (cs.foldl (fun x c => x.unparkAndReplay (x.parked c)) t) :=
    fun cs => by
      induction cs with
      | nil => exact fun ht => ht
      | cons c cs ih => exact fun ht => ih (K.unparkAndReplay park _ ht)
  split_ifs
  iterate 5 trivial
  exact replayed _ (mapped _ (registry _ _ h))

theorem bindChip (chip : Word32) (bib : Half) (h : P s) : (bindChip chip bib s).Keeps P := by
  refine State.unlessResetting_keeps fun _ => Verdict.keeps_ite (fun _ => trivial) fun _ => ?_
  split
  · trivial
  · exact Verdict.keeps_ite (fun _ => trivial) fun _ => Verdict.keeps_ite (fun _ => trivial) fun _ =>
      K.unparkAndReplay park _ (registry _ _ (registry _ _ h))

end KeptByReads

end Sys2Proof.Machine

/-! The control token, the watch list and log, and the tallies (chapters 10 and 11): every step keeps them sound. -/

namespace Sys2Proof.Machine

set_option Elab.async false

/-! ## The control token (10.2) -/

theorem State.TokenSound.of_eq {s t : State} (h : s.TokenSound) (ht : Block.token.read t = Block.token.read s) :
    t.TokenSound := by
  have token : t.control.token = s.control.token := congrArg Prod.fst ht
  have claim : t.control.claim = s.control.claim := congrArg Prod.snd ht
  unfold State.TokenSound
  rw [token, claim]
  exact h

theorem State.TokenSound.of_frame {s t : State} {bs : List Block} (h : s.TokenSound) (f : Frame bs s t)
    (hb : Block.token ∉ bs := by decide) : t.TokenSound := h.of_eq (f _ hb)

/-- Without a claim the token is sound. -/
theorem State.tokenSound_of_no_claim {s : State} (h : s.control.claim = none) : s.TokenSound := fun l hl => by
  rw [h] at hl
  exact nomatch hl

/-- A FREE token has no claim against it. -/
theorem State.TokenSound.claim_of_free {s : State} (h : s.TokenSound) (hfree : s.control.token = .free) :
    s.control.claim = none := by
  cases hc : s.control.claim with
  | none => rfl
  | some l =>
    have held := h l hc
    rw [hfree] at held
    exact nomatch held

/-- A claim against a held token is the other link's. -/
theorem State.TokenSound.claim_of_held {s : State} (h : s.TokenSound) {l k : Side} (hheld : s.control.token = .held l)
    (hc : s.control.claim = some k) : k = l.other := by
  have held := h k hc
  rw [hheld] at held
  cases held
  exact (Side.other_other k).symm

theorem State.giveUpToken_tokenSound {s : State} (h : s.TokenSound) {l : Side} (hheld : s.control.token = .held l) :
    (s.giveUpToken l).TokenSound := by
  unfold State.giveUpToken
  split
  · exact State.TokenSound.of_frame (State.tokenSound_of_no_claim (s := s.withToken _ none) rfl) (State.raiseTo_frame _ _ _)
  · rename_i hnot
    refine State.tokenSound_of_no_claim ?_
    cases hc : s.control.claim with
    | none => rfl
    | some k => exact absurd (h.claim_of_held hheld hc ▸ hc) hnot

/-- The token given to `l`, with a claim of `l` itself taken back, has no claim against it. -/
theorem State.handToken_tokenSound {s : State} (h : s.TokenSound) {l : Side} (hheld : s.control.token = .held l.other) :
    (s.withToken (.held l) (if s.control.claim = some l then none else s.control.claim)).TokenSound := by
  refine State.tokenSound_of_no_claim ?_
  show (if s.control.claim = some l then none else s.control.claim) = none
  split
  · rfl
  · rename_i hnot
    cases hc : s.control.claim with
    | none => rfl
    | some k =>
      have hk := h.claim_of_held hheld hc
      rw [Side.other_other] at hk
      exact absurd (hk ▸ hc) hnot

theorem claimToken_tokenSound {s : State} (h : s.TokenSound) (l : Side) : (claimToken l s).Keeps State.TokenSound := by
  unfold claimToken
  split
  · exact State.tokenSound_of_no_claim (s := s.withToken _ _) (h.claim_of_free ‹_›)
  split
  · exact h
  · rename_i hfree hnot
    have claimed : (s.withToken s.control.token (some l)).TokenSound := by
      intro k hk
      cases hk
      cases ht : s.control.token with
      | free => exact absurd ht hfree
      | held k =>
        have hne : k ≠ l := fun e => hnot (State.holds_iff.mpr (e ▸ ht))
        show Token.held k = _
        cases k <;> cases l <;> first | rfl | exact absurd rfl hne
    exact claimed.of_frame (State.raiseTo_frame _ _ _)

theorem seizeToken_tokenSound {s : State} (h : s.TokenSound) (l : Side) : (seizeToken l s).Keeps State.TokenSound := by
  cases l with
  | b => trivial
  | a =>
    simp only [seizeToken]
    split
    · exact State.tokenSound_of_no_claim (s := s.withToken _ _) (h.claim_of_free ‹_›)
    · exact h
    · exact (State.handToken_tokenSound h (l := .a) ‹_›).of_frame (State.raiseTo_frame _ _ _)

theorem releaseToken_tokenSound {s : State} (h : s.TokenSound) (l : Side) : (releaseToken l s).Keeps State.TokenSound := by
  refine Verdict.keeps_ite (fun hheld => State.giveUpToken_tokenSound h (State.holds_iff.mp hheld)) fun _ =>
    Verdict.keeps_ite (fun _ => ?_) fun _ => trivial
  exact State.tokenSound_of_no_claim (s := s.withToken _ none) rfl

theorem passToken_tokenSound {s : State} (h : s.TokenSound) (l : Side) : (passToken l s).Keeps State.TokenSound := by
  refine Verdict.keeps_ite (fun hheld => ?_) fun _ => trivial
  rw [Bool.and_eq_true, State.holds_iff] at hheld
  exact (State.handToken_tokenSound h (l := l.other) (by rw [Side.other_other]; exact hheld.1)).of_frame
    (State.raiseTo_frame _ _ _)

theorem State.dropShare_tokenSound {s : State} (h : s.TokenSound) (l : Side) : (s.dropShare l).TokenSound := by
  unfold State.dropShare
  split
  · exact (State.giveUpToken_tokenSound h (State.holds_iff.mp ‹_›)).of_frame (State.raiseTo_frame _ _ _)
  split
  · exact State.tokenSound_of_no_claim rfl
  · exact h

theorem exec_tokenSound (i : Instr) (s t : State) (hs : s.TokenSound) (h : exec i s = .next t) : t.TokenSound := by
  have hear : ∀ (l : Side) (u : State), u.TokenSound → (u.hearControl l).TokenSound := fun l u hu =>
    hu.of_frame (u.hearControl_frame l)
  have send : ∀ (u : State) (m : Sent), u.TokenSound → (u.transmit m).TokenSound := fun u m hu => hu
  cases hw : touches [.token] i with
  | false => exact hs.of_eq (read_of_not_touches hw h .token (by decide))
  | true =>
    cases i <;> first | exact Bool.noConfusion hw | skip
    case powerOn => cases h; exact State.tokenSound_of_no_claim rfl
    case stationReset cause =>
      simp only [exec, execStationReset, Host.Outcome.next.injEq] at h
      subst h
      cases cause with
      | resetLine => exact State.tokenSound_of_no_claim rfl
      | restart =>
        simp only
        split
        · exact State.tokenSound_of_no_claim rfl
        · exact hs
    case controlSilenceDeadline l =>
      simp only [exec, execControlSilenceDeadline, Host.Outcome.next.injEq] at h
      subst h
      split
      · exact State.dropShare_tokenSound (hs.of_frame (s.silenced_frame l)) l
      · exact hs
    case claim l tag =>
      exact exec_keeps_of_handling (i := .claim l tag) rfl (hear l) send (fun u hu _ _ => claimToken_tokenSound hu l) hs h
    case seize l tag =>
      exact exec_keeps_of_handling (i := .seize l tag) rfl (hear l) send (fun u hu _ _ => seizeToken_tokenSound hu l) hs h
    case release l tag =>
      exact exec_keeps_of_handling (i := .release l tag) rfl (hear l) send (fun u hu _ _ => releaseToken_tokenSound hu l) hs h
    case pass l tag =>
      exact exec_keeps_of_handling (i := .pass l tag) rfl (hear l) send (fun u hu _ _ => passToken_tokenSound hu l) hs h

/-! ## The watch list and the watch log (10.4) -/

theorem State.WatchSound.of_eq {s t : State} (h : s.WatchSound) (hl : t.control.watchList = s.control.watchList)
    (hlog : t.control.watchLog = s.control.watchLog) : t.WatchSound := by
  unfold State.WatchSound
  rw [hl, hlog]
  exact h

theorem State.WatchSound.of_frame {s t : State} {bs : List Block} (h : s.WatchSound) (f : Frame bs s t)
    (hl : Block.watchList ∉ bs := by decide) (hlog : Block.watchLog ∉ bs := by decide) : t.WatchSound :=
  h.of_eq (f.watchList hl) (f.watchLog hlog)

/-- A full watch log does not grow (R172). -/
theorem State.appendWatch_watchSound {s : State} (h : s.WatchSound) (e : WatchEntry) : (s.appendWatch e).WatchSound := by
  obtain ⟨hlen, hzero, hnodup, hlog⟩ := h
  unfold State.appendWatch
  split
  · exact ⟨hlen, hzero, hnodup, by simpa using Nat.succ_le_of_lt ‹_›⟩
  · have full : (s.withControl { s.control with overflow := true }).WatchSound := ⟨hlen, hzero, hnodup, hlog⟩
    exact full.of_frame (State.raiseIf_frame _ _ _)

theorem keptByRecords_watchSound : KeptByRecords State.WatchSound where
  count s c q h := h.of_frame (s.count_frame c q)
  raise s c h := h.of_frame (s.raise_frame c)
  park _ _ h := h
  putRunner _ _ h := h
  takePlace s p cr h := h.of_frame (s.takePlace_frame p cr)
  watch _ e h := State.appendWatch_watchSound h e
  offer s k _ h := h.of_frame (s.settleScreen_frame k (Screen.offer_profile _ _ _))

theorem keptByReads_watchSound : KeptByReads State.WatchSound where
  count s c q h := h.of_frame (s.count_frame c q)
  raise s c h := h.of_frame (s.raise_frame c)
  crossing _ i b h := keptByRecords_watchSound.takeCrossing i b h
  intake _ _ _ h := h
  align _ _ _ h := h
  passage _ _ h := h
  transmit _ _ h := h

theorem setWatch_watchSound {s : State} (h : s.WatchSound) (bibs : List Half) :
    (setWatch bibs s).Keeps State.WatchSound := by
  refine Verdict.keeps_ite (fun _ => trivial) fun hrange => Verdict.keeps_ite (fun _ => trivial) fun hdistinct => ?_
  rw [not_or, not_lt, List.contains_iff_mem] at hrange
  have distinct : allDistinct bibs = true := by simpa using hdistinct
  exact ⟨hrange.1, hrange.2, (allDistinct_iff bibs).mp distinct, h.2.2.2⟩

theorem readWatchLog_watchSound {s : State} (h : s.WatchSound) (n : Byte) : (readWatchLog n s).Keeps State.WatchSound := by
  obtain ⟨hlen, hzero, hnodup, hlog⟩ := h
  exact Verdict.keeps_ite (fun _ => ⟨hlen, hzero, hnodup, (by simpa using Nat.le_trans (Nat.sub_le _ _) hlog)⟩) fun _ => trivial

theorem exec_watchSound (i : Instr) (s t : State) (hs : s.WatchSound) (h : exec i s = .next t) : t.WatchSound := by
  have hear : ∀ (l : Side) (u : State), u.WatchSound → (u.hearControl l).WatchSound := fun l u hu =>
    hu.of_frame (u.hearControl_frame l)
  have send : ∀ (u : State) (m : Sent), u.WatchSound → (u.transmit m).WatchSound := fun u m hu => hu
  have K := keptByReads_watchSound
  have registry : ∀ (u : State) x, u.WatchSound → (u.withRegistry x).WatchSound := fun u x hu => hu
  have park : ∀ (u : State) x, u.WatchSound → (u.withPark x).WatchSound := fun u x hu => hu
  cases hw : touches [.watchList, .watchLog] i with
  | false =>
    exact hs.of_eq (read_of_not_touches hw h .watchList (by decide)) (read_of_not_touches hw h .watchLog (by decide))
  | true =>
    cases i <;> first | exact Bool.noConfusion hw | skip
    case powerOn => cases h; exact ⟨Nat.zero_le _, List.not_mem_nil, List.nodup_nil, Nat.zero_le _⟩
    case stationReset cause =>
      have reset : ∀ rc, (s.stationReset rc).WatchSound := fun rc => ⟨hs.1, hs.2.1, hs.2.2.1, Nat.zero_le _⟩
      simp only [exec, execStationReset, Host.Outcome.next.injEq] at h
      subst h
      cases cause with
      | resetLine => exact reset _
      | restart =>
        simp only
        split
        · exact reset _
        · exact hs
    case readCompletion => exact K.exec (i := .readCompletion) rfl hs h
    case closeDeadline p chip => exact K.exec (i := .closeDeadline p chip) rfl hs h
    case readWatchLog l tag n =>
      exact exec_keeps_of_handling (i := .readWatchLog l tag n) rfl (hear l) send
        (fun u hu _ _ => readWatchLog_watchSound hu n) hs h
    case setWatch l tag bibs =>
      exact exec_keeps_of_handling (i := .setWatch l tag bibs) rfl (hear l) send
        (fun u hu _ _ => setWatch_watchSound hu bibs) hs h
    case setPort l tag port point allowance =>
      exact exec_keeps_of_handling (i := .setPort l tag port point allowance) rfl (hear l) send
        (fun u hu _ _ => K.setPort (fun u _ hu => registry u _ hu) port point allowance hu) hs h
    case setLimits l tag a =>
      exact exec_keeps_of_handling (i := .setLimits l tag a) rfl (hear l) send
        (fun u hu _ _ => K.setLimits (fun u _ hu => registry u _ hu) a hu) hs h
    case register l tag bib wave chips name =>
      exact exec_keeps_of_handling (i := .register l tag bib wave chips name) rfl (hear l) send
        (fun u hu _ _ => K.registerRunner registry park bib wave chips name hu) hs h
    case bind l tag chip bib =>
      exact exec_keeps_of_handling (i := .bind l tag chip bib) rfl (hear l) send
        (fun u hu _ _ => K.bindChip registry park chip bib hu) hs h
    case raceReset l tag =>
      refine exec_keeps_of_handling (i := .raceReset l tag) rfl (hear l) send (fun u hu _ _ => ?_) hs h
      refine State.unlessResetting_keeps fun _ => ?_
      have folded : ((List.finRange 12).foldl (fun x p => x.resetIntake p) u).WatchSound :=
        hu.of_frame (State.foldl_frame (fun _ p => State.resetIntake_frame p) _)
      generalize (List.finRange 12).foldl (fun x p => x.resetIntake p) u = v at folded
      have emptied : v.resetBlocks.WatchSound := ⟨folded.1, folded.2.1, folded.2.2.1, Nat.zero_le _⟩
      cases l <;> exact emptied

/-! ## The tallies (11.1) -/

theorem State.TalliesSound.of_eq {s t : State} (h : s.TalliesSound)
    (ht : Block.tallies.read t = Block.tallies.read s) : t.TalliesSound := by
  intro i
  have same := congrFun ht i
  simp only [Block.read, Prod.mk.injEq] at same
  rw [same.1, same.2.1, same.2.2]
  exact h i

theorem State.TalliesSound.of_frame {s t : State} {bs : List Block} (h : s.TalliesSound) (f : Frame bs s t)
    (hb : Block.tallies ∉ bs := by decide) : t.TalliesSound := h.of_eq (f _ hb)

theorem State.talliesSound_of_reset {s : State} (h : s.tally = TallyUnit.reset) : s.TalliesSound := by
  intro i
  simp [h, TallyUnit.reset, Tally.reset]

/-- The numbers that `numbersBelow` answers lie below its bound. -/
theorem lt_of_mem_numbersBelow {n : Nat} {bs : List Byte} {q : List Nat} (h : numbersBelow n bs = some q) :
    ∀ x ∈ q, x < n := by
  unfold numbersBelow at h
  split at h
  · cases h
    intro x hx
    exact List.mem_range.mp (List.mem_filter.mp hx).1
  · exact nomatch h

theorem setTally_talliesSound {s : State} (h : s.TalliesSound) (tally cls : Byte) (qualifiers : List Byte)
    (limit : Option Word32) (stop : Bool) : (setTally tally cls qualifiers limit stop s).Keeps State.TalliesSound := by
  unfold setTally
  split
  · split
    · rename_i i c _ _ _ q hq
      refine Verdict.keeps_ite (fun hlimit => fun j => ?_) fun _ => trivial
      have fits : limit ≠ some 0 := by
        rintro rfl
        exact absurd hlimit (by decide)
      by_cases e : j = i
      · subst e
        simpa using ⟨lt_of_mem_numbersBelow hq, fits⟩
      · have : (s.tally.tallies.set i { cls := c, qualifiers := q, limit, stop, value := 0 })[j] = s.tally.tallies[j] :=
          Vector.getElem_set_ne _ _ fun eq => e (Fin.ext eq.symm)
        rw [State.withTally_tally, this]
        exact h j
    · trivial
  · trivial

theorem exec_talliesSound (i : Instr) (s t : State) (hs : s.TalliesSound) (h : exec i s = .next t) : t.TalliesSound := by
  cases hw : touches [.tallies] i with
  | false => exact hs.of_eq (read_of_not_touches hw h .tallies (by decide))
  | true =>
    cases i <;> first | exact Bool.noConfusion hw | skip
    case powerOn => cases h; exact State.talliesSound_of_reset rfl
    case stationReset cause =>
      simp only [exec, execStationReset, Host.Outcome.next.injEq] at h
      subst h
      cases cause with
      | resetLine => exact State.talliesSound_of_reset rfl
      | restart =>
        simp only
        split
        · exact State.talliesSound_of_reset rfl
        · exact hs
    case setTally l tag tally cls qualifiers limit stop =>
      exact exec_keeps_of_handling (i := .setTally l tag tally cls qualifiers limit stop) rfl
        (fun u hu => hu.of_frame (u.hearControl_frame l)) (fun u m hu => hu)
        (fun u hu _ _ => setTally_talliesSound hu tally cls qualifiers limit stop) hs h

/-- Settles O58: none of the three reads the queue, and every command keeps each. -/
theorem stepKeepsTokenWatchAndTallies : Obligations.StepKeepsTokenWatchAndTallies := by
  unfold Obligations.StepKeepsTokenWatchAndTallies
  exact ⟨fun _ _ hs h => step_keeps (P := State.TokenSound) (fun _ _ hs => hs) exec_tokenSound hs h,
    fun _ _ hs h => step_keeps (P := State.WatchSound) (fun _ _ hs => hs) exec_watchSound hs h,
    fun _ _ hs h => step_keeps (P := State.TalliesSound) (fun _ _ hs => hs) exec_talliesSound hs h⟩

end Sys2Proof.Machine

/-! The screens (chapter 9): what a screen's events leave of its items, and the proof that every step keeps each screen
sound. -/

namespace Sys2Proof.Machine

set_option Elab.async false

open scoped List

/-! ## The items of a queue and of lines -/

/-- The items on lines. -/
def shownOn (lines : List (Option ShownItem)) : List DisplayItem := lines.filterMap fun y => y.map fun z => z.item

/-- The bib and the point of an item, of which a screen holds one at most (R141). -/
def DisplayItem.split (x : DisplayItem) : Half × Point := (x.bib, x.point)

theorem Screen.items_eq (x : Screen) : x.items = x.queue ++ shownOn x.lines := rfl

theorem splits_nodup_of_subperm {l m : List DisplayItem} (h : l <+~ m) (hm : (m.map DisplayItem.split).Nodup) :
    (l.map DisplayItem.split).Nodup := by
  obtain ⟨l', hperm, hsub⟩ := h
  exact (hperm.map _).nodup_iff.mp (hm.sublist (hsub.map _))

/-- A line that is filled brings its item and may take an old one away. -/
theorem shownOn_set_subperm (lines : List (Option ShownItem)) (i : Nat) (z : ShownItem) :
    shownOn (lines.set i (some z)) <+~ z.item :: shownOn lines := by
  induction lines generalizing i with
  | nil => exact List.nil_subperm
  | cons y ys ih =>
    cases i with
    | zero =>
      refine (List.subperm_cons _).mpr ?_
      cases y with
      | none => exact List.Subperm.refl _
      | some w => exact List.Subperm.cons_self
    | succ i =>
      cases y with
      | none => exact ih i
      | some w => exact ((List.subperm_cons w.item).mpr (ih i)).trans (List.Perm.swap _ _ _).subperm

theorem shownOn_set_none (lines : List (Option ShownItem)) (i : Nat) : shownOn (lines.set i none) <+~ shownOn lines := by
  induction lines generalizing i with
  | nil => exact List.Subperm.refl _
  | cons y ys ih =>
    cases i with
    | zero =>
      cases y with
      | none => exact List.Subperm.refl _
      | some w => exact List.Subperm.cons_self
    | succ i =>
      cases y with
      | none => exact ih i
      | some w => exact (List.subperm_cons w.item).mpr (ih i)

theorem shownOn_clearLines (f : DisplayItem → Bool) (lines : List (Option ShownItem)) :
    shownOn (clearLines f lines) = (shownOn lines).filter fun y => !f y := by
  induction lines with
  | nil => rfl
  | cons y ys ih =>
    cases y with
    | none => exact ih
    | some z =>
      cases hz : f z.item with
      | true => simpa [shownOn, clearLines, lineHolds, hz] using ih
      | false => simpa [shownOn, clearLines, lineHolds, hz] using ih

theorem shownOn_replicate (n : Nat) : shownOn (List.replicate n none) = [] := by
  simp [shownOn]

theorem length_clearLines (f : DisplayItem → Bool) (lines : List (Option ShownItem)) :
    (clearLines f lines).length = lines.length := List.length_map ..

/-! ## Considering the head (R145, R146) -/

/-- Considering the head leaves a later part of the queue, as many lines, and no item twice. -/
theorem considerHead_keeps (prof : Profile) (now : Nat) (queue : List DisplayItem) (lines : List (Option ShownItem)) :
    (considerHead prof now queue lines).queue <+ queue ∧
    (considerHead prof now queue lines).lines.length = lines.length ∧
    (considerHead prof now queue lines).queue ++ shownOn (considerHead prof now queue lines).lines <+~
      queue ++ shownOn lines := by
  induction queue generalizing lines with
  | nil => exact ⟨List.Sublist.refl _, rfl, List.Subperm.refl _⟩
  | cons x rest ih =>
    unfold considerHead
    split
    · exact ⟨List.Sublist.refl _, rfl, List.Subperm.refl _⟩
    · split
      · obtain ⟨hqueue, hlines, hitems⟩ := ih lines
        exact ⟨hqueue.cons x, hlines, hitems.cons_right x⟩
      · split
        · rename_i i _
          obtain ⟨hqueue, hlines, hitems⟩ := ih (lines.set i (some (showItem prof now x)))
          refine ⟨hqueue.cons x, hlines.trans (List.length_set ..), hitems.trans ?_⟩
          have filled := shownOn_set_subperm lines i (showItem prof now x)
          exact ((List.subperm_append_left rest).mpr filled).trans List.perm_middle.subperm
        · exact ⟨List.Sublist.refl _, rfl, List.Subperm.refl _⟩

/-- Considering the head of a sound queue over lines leaves a sound screen. -/
theorem Screen.withHead_sound {x : Screen} (h : x.Sound) (now : Nat) {queue : List DisplayItem}
    {lines : List (Option ShownItem)} (hlen : queue.length ≤ Config.dueQueueSize)
    (hdue : queue.Pairwise fun y z => y.due ≤ z.due) (hlines : lines.length = x.profile.lines)
    (hsplits : ((queue ++ shownOn lines).map DisplayItem.split).Nodup) :
    (x.withHead (considerHead x.profile now queue lines)).Sound := by
  obtain ⟨hsub, hlength, hitems⟩ := considerHead_keeps x.profile now queue lines
  obtain ⟨-, -, -, -, hheld, htimer⟩ := h
  exact ⟨hsub.length_le.trans hlen, hdue.sublist hsub, hlength.trans hlines, splits_nodup_of_subperm hitems hsplits,
    hheld, htimer⟩

/-! ## Offering an item (R142, R143) -/

theorem insertDue_perm (x : DisplayItem) (l : List DisplayItem) : (insertDue x l).Perm (x :: l) := by
  induction l with
  | nil => exact List.Perm.refl _
  | cons y rest ih =>
    unfold insertDue
    split
    · exact (ih.cons y).trans (List.Perm.swap x y rest)
    · exact List.Perm.refl _

theorem insertDue_pairwise {x : DisplayItem} {l : List DisplayItem} (h : l.Pairwise fun y z => y.due ≤ z.due) :
    (insertDue x l).Pairwise fun y z => y.due ≤ z.due := by
  obtain ⟨front, back, rfl, hinsert, hfront, hback⟩ := insertDue_split x h
  obtain ⟨hf, hb, hfb⟩ := List.pairwise_append.mp h
  rw [hinsert]
  refine List.pairwise_append.mpr ⟨hf, List.pairwise_cons.mpr ⟨fun y hy => (hback y hy).le, hb⟩, fun y hy z hz => ?_⟩
  rcases List.mem_cons.mp hz with rfl | hz
  · exact hfront y hy
  · exact hfb y hy z hz

theorem removeLast_sublist {α : Type} (f : α → Bool) (l : List α) : removeLast f l <+ l := by
  rw [← List.reverse_sublist, removeLast, List.reverse_reverse]
  exact List.eraseP_sublist

theorem length_removeLast_lt {α : Type} {f : α → Bool} {l : List α} {x : α} (h : l.reverse.find? f = some x) :
    (removeLast f l).length + 1 = l.length := by
  have hmem : x ∈ l.reverse := List.mem_of_find?_eq_some h
  have hpos := List.length_pos_of_mem hmem
  rw [removeLast, List.length_reverse, List.length_eraseP_of_mem hmem (List.find?_some h)]
  simp only [List.length_reverse] at hpos ⊢
  omega

/-- An offer leaves a queue within its bound, in due order, with no item but its own and the offered one. -/
theorem enqueue_keeps (x : DisplayItem) {queue : List DisplayItem} (hlen : queue.length ≤ Config.dueQueueSize)
    (hdue : queue.Pairwise fun y z => y.due ≤ z.due) :
    (enqueue x queue).1.length ≤ Config.dueQueueSize ∧ (enqueue x queue).1.Pairwise (fun y z => y.due ≤ z.due) ∧
      (enqueue x queue).1 <+~ x :: queue := by
  have unchanged : queue <+~ x :: queue := List.Subperm.cons_self
  simp only [enqueue]
  split
  · rename_i hlt
    refine ⟨?_, insertDue_pairwise hdue, (insertDue_perm x queue).subperm⟩
    rw [(insertDue_perm x queue).length_eq]
    exact hlt
  split
  · rename_i last hlast
    split
    · exact ⟨hlen, hdue, unchanged⟩
    · have hsub := removeLast_sublist
        (fun y : DisplayItem => x.priority && queue.all (fun z => z.priority) || !y.priority) queue
      refine ⟨?_, insertDue_pairwise (hdue.sublist hsub),
        (insertDue_perm x _).subperm.trans ((List.subperm_cons x).mpr hsub.subperm)⟩
      rw [(insertDue_perm x _).length_eq, List.length_cons, length_removeLast_lt hlast]
      exact hlen
  · exact ⟨hlen, hdue, unchanged⟩

/-- Without the items of the offered split the offered item is a new one. -/
theorem splits_nodup_of_offer {x : DisplayItem} {queue kept : List DisplayItem} {lines : List (Option ShownItem)}
    (h : ((queue ++ shownOn lines).map DisplayItem.split).Nodup)
    (hkept : kept <+~ x :: queue.filter fun y => !sameSplit x y) :
    ((kept ++ shownOn (clearLines (sameSplit x) lines)).map DisplayItem.split).Nodup := by
  have others : queue.filter (fun y => !sameSplit x y) ++ shownOn (clearLines (sameSplit x) lines) =
      (queue ++ shownOn lines).filter fun y => !sameSplit x y := by
    rw [shownOn_clearLines, List.filter_append]
  refine splits_nodup_of_subperm ((List.subperm_append_right _).mpr hkept) ?_
  rw [List.cons_append, others, List.map_cons, List.nodup_cons]
  refine ⟨fun hmem => ?_, h.sublist (List.filter_sublist.map _)⟩
  obtain ⟨y, hy, hsplit⟩ := List.mem_map.mp hmem
  have hdiffers := (List.mem_filter.mp hy).2
  simp only [DisplayItem.split, Prod.mk.injEq] at hsplit
  simp [sameSplit, hsplit.1, hsplit.2] at hdiffers

theorem Screen.offer_sound {x : Screen} (h : x.Sound) (now : Nat) (item : DisplayItem) :
    (x.offer now item).screen.Sound := by
  obtain ⟨hlen, hdue, hlines, hsplits, -, -⟩ := id h
  simp only [Screen.offer]
  split
  · exact h
  · have hsub : x.queue.filter (fun y => !sameSplit item y) <+ x.queue := List.filter_sublist
    obtain ⟨hlen', hdue', hitems⟩ := enqueue_keeps item (hsub.length_le.trans hlen) (hdue.sublist hsub)
    exact Screen.withHead_sound h now hlen' hdue' ((length_clearLines _ _).trans hlines)
      (splits_nodup_of_offer hsplits hitems)

/-! ## The other events of a screen -/

theorem Screen.considered_sound {x : Screen} (h : x.Sound) (now : Nat) : (x.considered now).screen.Sound :=
  Screen.withHead_sound h now h.1 h.2.1 h.2.2.1 h.2.2.2.1

theorem Screen.expire_sound {x : Screen} (h : x.Sound) (now : Nat) (i : Nat) : (x.expire now i).screen.Sound := by
  obtain ⟨hlen, hdue, hlines, hsplits, -, -⟩ := id h
  exact Screen.withHead_sound h now hlen hdue ((List.length_set ..).trans hlines)
    (splits_nodup_of_subperm ((List.subperm_append_left _).mpr (shownOn_set_none _ _)) hsplits)

theorem Screen.dropBib_sound {x : Screen} (h : x.Sound) (now : Nat) (bib : Half) : (x.dropBib now bib).screen.Sound := by
  obtain ⟨hlen, hdue, hlines, hsplits, hheld, htimer⟩ := id h
  have hsub : x.queue.filter (fun y => !(y.bib == bib)) <+ x.queue := List.filter_sublist
  have kept := hsub.length_le.trans hlen
  simp only [Screen.dropBib]
  split_ifs
  · exact h
  · refine Screen.withHead_sound h now kept (hdue.sublist hsub) ((length_clearLines _ _).trans hlines) ?_
    rw [shownOn_clearLines]
    exact hsplits.sublist ((hsub.append List.filter_sublist).map _)
  · exact ⟨kept, hdue.sublist hsub, hlines, hsplits.sublist ((hsub.append (List.Sublist.refl _)).map _), hheld, htimer⟩

/-- An emptied screen is sound when its link part is. -/
theorem Screen.sound_of_empty {x : Screen} (hqueue : x.queue = []) (hlines : x.lines = List.replicate x.profile.lines none)
    (hheld : x.held.isSome = true → x.link = .up) (htimer : x.timer.isSome = true ↔ x.link = .up) : x.Sound := by
  refine ⟨?_, ?_, ?_, ?_, hheld, htimer⟩
  · rw [hqueue]; exact Nat.zero_le _
  · rw [hqueue]; exact List.Pairwise.nil
  · rw [hlines, List.length_replicate]
  · show (x.items.map DisplayItem.split).Nodup
    rw [Screen.items_eq, hqueue, hlines, shownOn_replicate]
    exact List.nodup_nil

theorem Screen.reset_sound (p : Profile) : (Screen.reset p).Sound :=
  Screen.sound_of_empty rfl rfl (nofun) ⟨nofun, nofun⟩

theorem Screen.emptied_sound {x : Screen} (h : x.Sound) (p : Profile) : (x.emptied p).Sound :=
  Screen.sound_of_empty rfl rfl h.2.2.2.2.1 h.2.2.2.2.2

theorem Screen.raceReset_sound {x : Screen} (h : x.Sound) : x.raceReset.Sound :=
  Screen.sound_of_empty rfl rfl (nofun) h.2.2.2.2.2

/-- Without a held request a screen stays sound, whatever its sequence and its session. -/
theorem Screen.answered_sound {x : Screen} (h : x.Sound) (seq : Half) : { x with seq, held := none }.Sound := by
  obtain ⟨hlen, hdue, hlines, hsplits, -, htimer⟩ := h
  exact ⟨hlen, hdue, hlines, hsplits, nofun, htimer⟩

/-! ## The state's screens -/

theorem State.ScreensSound.of_eq {s t : State} (h : s.ScreensSound) (he : t.screens = s.screens) : t.ScreensSound := by
  unfold State.ScreensSound
  rw [he]
  exact h

theorem State.ScreensSound.of_frame {s t : State} {bs : List Block} (h : s.ScreensSound) (f : Frame bs s t)
    (hb : Block.screens ∉ bs := by decide) : t.ScreensSound := h.of_eq (f.screens hb)

theorem State.ScreensSound.withScreen {s : State} (h : s.ScreensSound) (k : ScreenNo) {x : Screen} (hx : x.Sound) :
    (s.withScreen k x).ScreensSound := by
  intro j
  by_cases e : j = k
  · subst e
    rw [State.withScreen_same]
    exact hx
  · rw [State.withScreen_other _ _ e]
    exact h j

theorem State.ScreensSound.riseSequence {s : State} (h : s.ScreensSound) (k : ScreenNo) :
    (s.riseSequence k).ScreensSound := by
  intro j
  by_cases e : j = k
  · subst e
    rw [State.riseSequence_self]
    exact Screen.answered_sound (h j) _
  · rw [State.riseSequence_other _ e]
    exact h j

theorem State.ScreensSound.settleScreen {s : State} (h : s.ScreensSound) (k : ScreenNo) {o : ScreenOutcome}
    (ho : o.screen.Sound) : (s.settleScreen k o).ScreensSound := by
  have counted : ((s.withScreen k o.screen).countAll o.counts k).ScreensSound :=
    (h.withScreen k ho).of_eq (State.countAll_screens _ _ _)
  simp only [State.settleScreen]
  split
  · exact counted.riseSequence k
  · exact counted

theorem State.ScreensSound.answerHeld {s : State} (h : s.ScreensSound) (k : ScreenNo) : (s.answerHeld k).ScreensSound := by
  simp only [State.answerHeld]
  split
  · exact (h.withScreen k (Screen.answered_sound (h k) s.screens[k].seq)).of_frame (State.transmit_frame _ _)
  · exact h

theorem State.ScreensSound.answerRequest {s : State} (h : s.ScreensSound) {k : ScreenNo}
    (hup : s.screens[k].link = .up) (last : Half) (wait : Bool) : (s.answerRequest k last wait).ScreensSound := by
  obtain ⟨hlen, hdue, hlines, hsplits, hheld, htimer⟩ := h k
  simp only [State.answerRequest]
  split_ifs
  · refine State.ScreensSound.of_frame (h.withScreen k ?_) (State.transmit_frame _ _)
    exact ⟨hlen, hdue, hlines, hsplits, hheld, htimer⟩
  · exact h
  · exact h
  · exact h.withScreen k ⟨hlen, hdue, hlines, hsplits, fun _ => hup, htimer⟩

theorem State.ScreensSound.dropBib {s : State} (h : s.ScreensSound) (bib : Half) : (s.dropBib bib).ScreensSound := by
  intro k
  rw [State.dropBib_screen]
  exact h.settleScreen k (Screen.dropBib_sound (h k) _ _) k

theorem keptByRecords_screensSound : KeptByRecords State.ScreensSound where
  count s c q h := h.of_frame (s.count_frame c q)
  raise s c h := h.of_frame (s.raise_frame c)
  park _ _ h := h
  putRunner _ _ h := h
  takePlace s p cr h := h.of_frame (s.takePlace_frame p cr)
  watch s e h := h.of_eq (s.appendWatch_display e).1
  offer _ k x h := h.settleScreen k (Screen.offer_sound (h k) _ x)

theorem keptByReads_screensSound : KeptByReads State.ScreensSound where
  count s c q h := h.of_frame (s.count_frame c q)
  raise s c h := h.of_frame (s.raise_frame c)
  crossing _ i b h := keptByRecords_screensSound.takeCrossing i b h
  intake _ _ _ h := h
  align _ _ _ h := h
  passage _ _ h := h
  transmit _ _ h := h

theorem setProfile_screensSound {s : State} (h : s.ScreensSound) (screen : Byte) (a : ProfileArgs) :
    (setProfile screen a s).Keeps State.ScreensSound := by
  unfold setProfile
  split
  · exact (h.withScreen _ (Screen.emptied_sound (h _) _)).riseSequence _
  · trivial

theorem disqualifyRunner_screensSound {s : State} (h : s.ScreensSound) (bib : Half) :
    (disqualifyRunner bib s).Keeps State.ScreensSound :=
  State.correct_keeps fun _ _ _ => Verdict.keeps_ite (fun _ => trivial) fun _ =>
    State.ScreensSound.dropBib (s := s.putRunner _) h bib

theorem beginRaceReset_screensSound {s : State} (h : s.ScreensSound) (l : Side) (tag : Byte) :
    (beginRaceReset l tag s).Keeps State.ScreensSound := by
  refine State.unlessResetting_keeps fun _ => ?_
  have folded : ((List.finRange 12).foldl (fun x p => x.resetIntake p) s).ScreensSound :=
    h.of_frame (State.foldl_frame (fun _ p => State.resetIntake_frame p) _)
  generalize (List.finRange 12).foldl (fun x p => x.resetIntake p) s = t at folded
  have emptied : t.resetBlocks.ScreensSound := fun k => by
    simpa [State.resetBlocks] using Screen.raceReset_sound (folded k)
  exact emptied

theorem exec_screensSound (i : Instr) (s t : State) (hs : s.ScreensSound) (h : exec i s = .next t) : t.ScreensSound := by
  have hear : ∀ (l : Side) (u : State), u.ScreensSound → (u.hearControl l).ScreensSound := fun l u hu => hu
  have send : ∀ (u : State) (m : Sent), u.ScreensSound → (u.transmit m).ScreensSound := fun u m hu => hu
  have K := keptByReads_screensSound
  have registry : ∀ (u : State) x, u.ScreensSound → (u.withRegistry x).ScreensSound := fun u x hu => hu
  have park : ∀ (u : State) x, u.ScreensSound → (u.withPark x).ScreensSound := fun u x hu => hu
  cases hw : touches [.screens] i with
  | false => exact hs.of_eq (read_of_not_touches hw h .screens (by decide))
  | true =>
    cases i <;> first | exact Bool.noConfusion hw | skip
    case powerOn =>
      cases h
      intro k
      simpa using Screen.reset_sound _
    case stationReset cause =>
      have reset : ∀ rc, (s.stationReset rc).ScreensSound := fun rc k => by
        simpa [State.stationReset] using Screen.reset_sound _
      simp only [exec, execStationReset, Host.Outcome.next.injEq] at h
      subst h
      cases cause with
      | resetLine => exact reset _
      | restart =>
        simp only
        split
        · exact reset _
        · exact hs
    case readCompletion => exact K.exec (i := .readCompletion) rfl hs h
    case closeDeadline p chip => exact K.exec (i := .closeDeadline p chip) rfl hs h
    case dueDeadline k =>
      simp only [exec, execDueDeadline, Host.Outcome.next.injEq] at h
      subst h
      split
      · exact hs.settleScreen k (Screen.considered_sound (hs k) _)
      · exact hs
    case lineExpiry k line =>
      simp only [exec, execLineExpiry, Host.Outcome.next.injEq] at h
      subst h
      split
      · exact hs.settleScreen k (Screen.expire_sound (hs k) _ _)
      · exact hs
    case screenHello k =>
      simp only [exec, execScreenHello, Host.Outcome.next.injEq] at h
      subst h
      split
      · exact hs
      · obtain ⟨hlen, hdue, hlines, hsplits, -, -⟩ := hs k
        exact hs.withScreen k ⟨hlen, hdue, hlines, hsplits, fun _ => rfl, ⟨fun _ => rfl, fun _ => rfl⟩⟩
    case frameRequest k last wait =>
      simp only [exec, execFrameRequest, Host.Outcome.next.injEq] at h
      subst h
      split
      · exact hs
      · rename_i hup
        obtain ⟨hlen, hdue, hlines, hsplits, hheld, htimer⟩ := hs k
        have up : s.screens[k].link = .up := by
          cases hl : s.screens[k].link with
          | up => rfl
          | down => exact absurd (by rw [hl]; exact Bool.or_true _) hup
        have heard := hs.withScreen k (x := { s.screens[k] with timer := some (s.elapsed + Config.screenSilence) })
          ⟨hlen, hdue, hlines, hsplits, hheld, ⟨fun _ => up, fun _ => rfl⟩⟩
        refine (heard.answerHeld k).answerRequest ?_ last wait
        simp only [State.answerHeld]
        split <;> simpa [State.transmit, State.withScreen] using up
    case holdDeadline k =>
      simp only [exec, execHoldDeadline, Host.Outcome.next.injEq] at h
      subst h
      split
      · exact hs.answerHeld k
      · exact hs
    case screenSilenceDeadline k =>
      simp only [exec, execScreenSilenceDeadline, Host.Outcome.next.injEq] at h
      subst h
      split
      · obtain ⟨hlen, hdue, hlines, hsplits, -, -⟩ := hs k
        refine State.ScreensSound.of_frame (hs.withScreen k ?_) (State.raise_frame _ _)
        exact ⟨hlen, hdue, hlines, hsplits, nofun, ⟨nofun, nofun⟩⟩
      · exact hs
    case setPort l tag port point allowance =>
      exact exec_keeps_of_handling (i := .setPort l tag port point allowance) rfl (hear l) send
        (fun u hu _ _ => K.setPort (fun u _ hu => registry u _ hu) port point allowance hu) hs h
    case setLimits l tag a =>
      exact exec_keeps_of_handling (i := .setLimits l tag a) rfl (hear l) send
        (fun u hu _ _ => K.setLimits (fun u _ hu => registry u _ hu) a hu) hs h
    case setProfile l tag screen a =>
      exact exec_keeps_of_handling (i := .setProfile l tag screen a) rfl (hear l) send
        (fun u hu _ _ => setProfile_screensSound hu screen a) hs h
    case register l tag bib wave chips name =>
      exact exec_keeps_of_handling (i := .register l tag bib wave chips name) rfl (hear l) send
        (fun u hu _ _ => K.registerRunner registry park bib wave chips name hu) hs h
    case bind l tag chip bib =>
      exact exec_keeps_of_handling (i := .bind l tag chip bib) rfl (hear l) send
        (fun u hu _ _ => K.bindChip registry park chip bib hu) hs h
    case disqualify l tag bib =>
      exact exec_keeps_of_handling (i := .disqualify l tag bib) rfl (hear l) send
        (fun u hu _ _ => disqualifyRunner_screensSound hu bib) hs h
    case raceReset l tag =>
      exact exec_keeps_of_handling (i := .raceReset l tag) rfl (hear l) send
        (fun u hu _ _ => beginRaceReset_screensSound hu l tag) hs h

/-- Settles O57: an item that comes to a screen takes the place of the one of its split, and considering the head brings
none, so a screen stays sound under every command. -/
theorem stepKeepsScreens : Obligations.StepKeepsScreens := by
  unfold Obligations.StepKeepsScreens
  exact fun s t hs h => step_keeps (P := State.ScreensSound) (fun _ _ hs => hs) exec_screensSound hs h

end Sys2Proof.Machine

/-! Credits and passages (chapters 2 and 4): the balance of a mat port under each change of its account, what the takes
and the closings leave of the passage lists, and the proof that every step keeps both. -/

namespace Sys2Proof.Machine

set_option Elab.async false

/-! ## The balance of one account (R30) -/

/-- The balance of an account while the Passage Unit holds `held` reads of its port. -/
def MatIntake.Balanced (m : MatIntake) (held : Nat) : Prop :=
  (m.link = .up → m.outstanding + m.list.length + held = Config.creditBudget ∧
    m.grant = m.expected + BitVec.ofNat 8 m.outstanding) ∧
  (m.link = .down → m.outstanding = 0 ∧ m.unreported = 0) ∧
  m.list.length + held ≤ Config.creditBudget ∧
  (m.timer.isSome = true ↔ m.link = .up) ∧
  (∀ x ∈ m.list, x.chip ≠ 0)

theorem State.portBalanced_iff (s : State) (p : Port) : s.PortBalanced p ↔ s.intake[p].Balanced (s.heldOf p) := Iff.rfl

theorem LinkState.down_of_not_up {l : LinkState} (h : ¬ (l == .up) = true) : l = .down := by
  cases l with
  | down => rfl
  | up => exact absurd rfl h

namespace MatIntake.Balanced

variable {m : MatIntake} {held : Nat}

/-- The account of an UP port, whose link gives the other conjuncts. -/
theorem of_up (hup : m.link = .up) (hsum : m.outstanding + m.list.length + held = Config.creditBudget)
    (hgrant : m.grant = m.expected + BitVec.ofNat 8 m.outstanding) (htimer : m.timer.isSome = true)
    (hchips : ∀ x ∈ m.list, x.chip ≠ 0) : m.Balanced held :=
  ⟨fun _ => ⟨hsum, hgrant⟩, fun hdown => (nomatch hup.symm.trans hdown), by omega, iff_of_true htimer hup, hchips⟩

theorem of_down (hdown : m.link = .down) (hout : m.outstanding = 0) (hunreported : m.unreported = 0)
    (hlen : m.list.length + held ≤ Config.creditBudget) (htimer : m.timer = none)
    (hchips : ∀ x ∈ m.list, x.chip ≠ 0) : m.Balanced held :=
  ⟨fun hup => (nomatch hdown.symm.trans hup), fun _ => ⟨hout, hunreported⟩, hlen,
    iff_of_false (by simp [htimer]) (by simp [hdown]), hchips⟩

/-- The CREDIT check zeroes the unreported credits alone (R29). -/
theorem reported (h : m.Balanced held) : { m with unreported := 0 }.Balanced held :=
  ⟨h.1, fun hdown => ⟨(h.2.1 hdown).1, rfl⟩, h.2.2⟩

/-- A read that is no longer held leaves the credit to be returned on an UP port. -/
theorem credited (h : m.Balanced (held + 1)) (hup : m.link = .up) : m.credited.Balanced held := by
  obtain ⟨hbal, -, -, htimer, hchips⟩ := h
  obtain ⟨hsum, hgrant⟩ := hbal hup
  refine of_up hup ?_ ?_ (htimer.mpr hup) hchips
  · show m.outstanding + 1 + m.list.length + held = _
    omega
  · show m.grant + 1 = m.expected + BitVec.ofNat 8 (m.outstanding + 1)
    rw [hgrant, BitVec.ofNat_add, BitVec.add_assoc]
    rfl

theorem uncredited (h : m.Balanced (held + 1)) (hdown : m.link = .down) : m.Balanced held :=
  ⟨fun hup => (nomatch hdown.symm.trans hup), h.2.1, by have := h.2.2.1; omega, h.2.2.2⟩

/-- A read that leaves the list is held, or its credit is owed. -/
theorem taken {x : IntakeRead} {rest : List IntakeRead} (h : m.Balanced held) (hl : m.list = x :: rest) :
    { m with list := rest }.Balanced (held + 1) := by
  obtain ⟨hbal, hdown, hlen, htimer, hchips⟩ := h
  rw [hl] at hbal hlen hchips
  simp only [List.length_cons] at hbal hlen
  exact ⟨fun hup => ⟨by have := (hbal hup).1; simp only; omega, (hbal hup).2⟩, hdown, by simp only; omega, htimer,
    fun y hy => hchips y (List.mem_cons_of_mem _ hy)⟩

theorem heard (h : m.Balanced held) (hup : m.link = .up) (t : Nat) : { m with timer := some t }.Balanced held :=
  ⟨h.1, h.2.1, h.2.2.1, iff_of_true rfl hup, h.2.2.2.2⟩

theorem silenced (h : m.Balanced held) : m.silenced.Balanced held :=
  of_down rfl rfl rfl h.2.2.1 rfl h.2.2.2.2

theorem reset : MatIntake.reset.Balanced 0 := of_down rfl rfl rfl (by decide) rfl fun _ hx => (nomatch hx)

/-- A session opens with as many credits as there are places (R19). -/
theorem opened (h : m.Balanced held) (timer : Nat) :
    ({ link := .up, list := m.list, outstanding := Config.creditBudget - m.list.length - held, expected := 0,
       grant := BitVec.ofNat 8 (Config.creditBudget - m.list.length - held), unreported := 0,
       timer := some timer } : MatIntake).Balanced held := by
  refine of_up rfl ?_ (BitVec.zero_add _).symm rfl h.2.2.2.2
  have := h.2.2.1
  simp only
  omega

/-- The number of a read within the credits, less the expected number, is what the grant count rises by (R24, R25). -/
theorem grant_of_accepted (h : m.Balanced held) (hup : m.link = .up) {seq : Byte} :
    m.grant + BitVec.ofNat 8 (seqDistance m seq) = seq + BitVec.ofNat 8 m.outstanding := by
  rw [(h.1 hup).2, seqDistance, BitVec.ofNat_toNat, BitVec.setWidth_eq]
  bv_omega

/-- An accepted read takes a credit's place in the list; the lost ones return theirs (R24, R25). -/
theorem accepted (h : m.Balanced held) (hup : m.link = .up) {seq : Byte} {x : IntakeRead}
    (hin : seqDistance m seq < m.outstanding) (hx : x.chip ≠ 0) :
    ((m.refund (seqDistance m seq)).accept seq x).Balanced held := by
  have hgrant := h.grant_of_accepted hup (seq := seq)
  refine of_up hup ?_ ?_ (h.2.2.2.1.mpr hup) fun y hy => ?_
  · have := (h.1 hup).1
    show m.outstanding - 1 + (m.list ++ [x]).length + held = _
    rw [List.length_append, List.length_singleton]
    omega
  · show m.grant + BitVec.ofNat 8 (seqDistance m seq) = seq + 1 + BitVec.ofNat 8 (m.outstanding - 1)
    obtain ⟨n, hn⟩ : ∃ n, m.outstanding = n + 1 := ⟨m.outstanding - 1, by omega⟩
    rw [hgrant, hn, Nat.add_sub_cancel, BitVec.ofNat_add]
    bv_omega
  · rcases List.mem_append.mp hy with hy | hy
    · exact h.2.2.2.2 y hy
    · rw [List.mem_singleton.mp hy]
      exact hx

/-- A read of chip 0 returns its own credit with those of the lost ones (R27). -/
theorem refunded (h : m.Balanced held) (hup : m.link = .up) (seq : Byte) :
    { (m.refund (seqDistance m seq)).refund 1 with expected := seq + 1 }.Balanced held := by
  have hgrant := h.grant_of_accepted hup (seq := seq)
  refine of_up hup (h.1 hup).1 ?_ (h.2.2.2.1.mpr hup) h.2.2.2.2
  show m.grant + BitVec.ofNat 8 (seqDistance m seq) + BitVec.ofNat 8 1 = seq + 1 + BitVec.ofNat 8 m.outstanding
  rw [hgrant]
  bv_omega

/-- A Race Reset gives an UP port all its credits anew (R34). -/
theorem raceReset (h : m.Balanced held) : (m.raceReset held).Balanced 0 := by
  obtain ⟨hbal, hdown, hlen, htimer, -⟩ := h
  unfold MatIntake.raceReset
  split
  · rename_i hlink
    have hup : m.link = .up := beq_iff_eq.mp hlink
    obtain ⟨hsum, hgrant⟩ := hbal hup
    refine of_up hup rfl ?_ (htimer.mpr hup) fun _ hx => (nomatch hx)
    show m.grant + BitVec.ofNat 8 (m.list.length + held) = m.expected + BitVec.ofNat 8 Config.creditBudget
    rw [hgrant, ← hsum, BitVec.add_assoc, ← BitVec.ofNat_add, Nat.add_assoc]
  · rename_i hlink
    have down := LinkState.down_of_not_up hlink
    refine of_down down (hdown down).1 (hdown down).2 (Nat.zero_le _) ?_ fun _ hx => (nomatch hx)
    cases ht : m.timer with
    | none => rfl
    | some d => rw [ht, down] at htimer; exact nomatch htimer.mp rfl

end MatIntake.Balanced

/-! ## The balance of the ports -/

/-- Every port is balanced with the held reads that `held` gives it. -/
def State.BalancedWith (s : State) (held : Port → Nat) : Prop := ∀ p : Port, s.intake[p].Balanced (held p)

/-- The held reads with one more at port `p`, whose credit is not yet returned. -/
def owing (held : Port → Nat) (p : Port) : Port → Nat := Function.update held p (held p + 1)

theorem State.balanced_iff (s : State) : s.Balanced ↔ s.BalancedWith s.heldOf := Iff.rfl

/-- The port of the held read. -/
def State.heldPort (s : State) : Option Port := s.passage.held.map fun h => h.port

theorem State.heldPort_of_passage {s t : State} (h : t.passage = s.passage) : t.heldPort = s.heldPort := by
  unfold State.heldPort
  rw [h]

theorem State.Balanced.account {s : State} (h : s.Balanced) (p : Port) : s.intake[p].Balanced (s.heldOf p) := h p

theorem State.heldOf_none {s : State} (h : s.passage.held = none) : s.heldOf = fun _ => 0 := by
  funext p
  simp [State.heldOf, h]

theorem State.heldOf_some {s : State} {x : HeldRead} (h : s.passage.held = some x) :
    s.heldOf = owing (fun _ => 0) x.port := by
  funext p
  by_cases e : p = x.port
  · simp [State.heldOf, h, owing, e]
  · have ne : x.port ≠ p := fun eq => e eq.symm
    simp [State.heldOf, h, owing, e, ne]

namespace State.BalancedWith

variable {s t : State} {held : Port → Nat}

theorem of_intake (h : s.BalancedWith held) (ht : t.intake = s.intake) : t.BalancedWith held := by
  unfold State.BalancedWith
  rw [ht]
  exact h

/-- One account is replaced by a balanced one. -/
theorem withIntake {held' : Port → Nat} (h : s.BalancedWith held') (p : Port) {m : MatIntake}
    (hm : m.Balanced (held p)) (hothers : ∀ q, q ≠ p → held' q = held q) : (s.withIntake p m).BalancedWith held := by
  intro q
  by_cases e : q = p
  · subst e
    rw [State.withIntake_same]
    exact hm
  · rw [State.withIntake_other _ _ e, ← hothers q e]
    exact h q

theorem creditCheck (h : s.BalancedWith held) (p : Port) : (s.creditCheck p).BalancedWith held := by
  simp only [State.creditCheck]
  split
  · exact (h.withIntake p (h p).reported fun _ _ => rfl).of_intake rfl
  · exact h

theorem returnCredit {p : Port} (h : s.BalancedWith (owing held p)) : (s.returnCredit p).BalancedWith held := by
  have owed : s.intake[p].Balanced (held p + 1) := by simpa [owing] using h p
  have others : ∀ q, q ≠ p → owing held p q = held q := fun q hq => Function.update_of_ne hq _ _
  unfold State.returnCredit
  split
  · exact (h.withIntake p (owed.credited (beq_iff_eq.mp ‹_›)) others).creditCheck p
  · rename_i hlink
    intro q
    by_cases e : q = p
    · subst e
      exact owed.uncredited (LinkState.down_of_not_up hlink)
    · rw [← others q e]
      exact h q

end State.BalancedWith

/-! ## Takes -/

/-- A property that each take keeps is kept by all of them (R51). -/
theorem State.takeReads_keeps {P : State → Prop}
    (take : ∀ s p x rest, s.passage.held = none → s.intake[p].list = x :: rest → P s → P (s.takeRead p x rest))
    {s : State} (h : P s) : P s.takeReads := by
  unfold State.takeReads
  generalize s.waitingReads = n
  induction n generalizing s with
  | zero => exact h
  | succ n ih =>
    unfold State.takeUpTo
    split
    · rename_i hmay
      have free : s.passage.held = none := by
        simp only [State.mayTake, Bool.and_eq_true, Option.isNone_iff_eq_none] at hmay
        exact hmay.1.1
      split
      · exact h
      · split
        · exact h
        · exact ih (take _ _ _ _ free ‹_› h)
    · exact h

/-- The state in which a read has left its list, before it is held or dropped (R28, R52). -/
def State.removeRead (s : State) (p : Port) (rest : List IntakeRead) : State :=
  ((s.withIntake p { s.intake[p] with list := rest }).withPassage { s.passage with lastServed := p }).creditCheck p

/-- A read that leaves its list is held at the port's point, or dropped with its credit returned (R52). -/
theorem State.takeRead_cases (s : State) (p : Port) (x : IntakeRead) (rest : List IntakeRead) :
    (∃ point, s.registry.ports[p].point = some point ∧
      s.takeRead p x rest = (s.removeRead p rest).withHeld (some (holdRead (s.removeRead p rest) p point x))) ∨
    s.takeRead p x rest = ((s.removeRead p rest).count .readDropped p).returnCredit p := by
  have ports : (s.removeRead p rest).registry = s.registry := (State.creditCheck_takes _ p).registry
  have unfolded : s.takeRead p x rest = match (s.removeRead p rest).registry.ports[p].point with
    | none => ((s.removeRead p rest).count .readDropped p).returnCredit p
    | some point => if (s.removeRead p rest).clockRuns then
        (s.removeRead p rest).withHeld (some (holdRead (s.removeRead p rest) p point x))
      else ((s.removeRead p rest).count .readDropped p).returnCredit p := rfl
  rw [ports] at unfolded
  rw [unfolded]
  cases hpoint : s.registry.ports[p].point with
  | none => exact .inr rfl
  | some point =>
    simp only
    split
    · exact .inl ⟨point, rfl, rfl⟩
    · exact .inr rfl

/-! ## What keeps the accounts and the port of the held read -/

theorem State.heldOf_eq {s t : State} (h : t.heldPort = s.heldPort) : t.heldOf = s.heldOf := by
  have any : ∀ (u : State) p, u.heldOf p = if u.heldPort = some p then 1 else 0 := fun u p => by
    cases hu : u.passage.held with
    | none => simp [State.heldOf, State.heldPort, hu]
    | some x => simp [State.heldOf, State.heldPort, hu]
  funext p
  rw [any, any, h]

/-- `t` has the accounts of `s`, and its held read comes from the same port. -/
structure SameHeld (s t : State) : Prop where
  intake : t.intake = s.intake
  port : t.heldPort = s.heldPort

theorem SameHeld.balanced {s t : State} (h : SameHeld s t) (hs : s.Balanced) : t.Balanced := by
  rw [State.balanced_iff, State.heldOf_eq h.port]
  exact ((s.balanced_iff).mp hs).of_intake h.intake

theorem SameHeld.of_frame {s t : State} {bs : List Block} (f : Frame bs s t) (hi : Block.intake ∉ bs := by decide)
    (hp : Block.passage ∉ bs := by decide) : SameHeld s t :=
  ⟨f.intake hi, State.heldPort_of_passage (f.passage hp)⟩

theorem SameHeld.trans {s t u : State} (h : SameHeld s t) (k : SameHeld t u) : SameHeld s u :=
  ⟨k.intake.trans h.intake, k.port.trans h.port⟩

theorem keptByClosing_sameHeld (s : State) : KeptByClosing (SameHeld s) where
  count t c q h := h.trans (SameHeld.of_frame (t.count_frame c q))
  crossing t i b h := h.trans (SameHeld.of_frame (t.takeCrossing_frame i b))
  lists _ _ h := ⟨h.intake, h.port⟩

theorem State.resetHeld_sameHeld (s : State) (p : Port) : SameHeld s (s.resetHeld p) := by
  unfold State.resetHeld
  split
  · rename_i h hh
    split
    · exact ⟨rfl, by simp [State.heldPort, hh]⟩
    · exact ⟨rfl, rfl⟩
  · exact ⟨rfl, rfl⟩

theorem State.voidPassages_sameHeld (s : State) : SameHeld s s.voidPassages :=
  ⟨rfl, by simp [State.heldPort, State.voidPassages, Function.comp_def]⟩

theorem State.foldl_sameHeld {α : Type} {f : State → α → State} (h : ∀ t a, SameHeld t (f t a)) (l : List α)
    (s : State) : SameHeld s (l.foldl f s) := by
  induction l generalizing s with
  | nil => exact ⟨rfl, rfl⟩
  | cons a l ih => exact (h s a).trans (ih _)

/-! ## Balanced: every command -/

theorem State.takeReads_balanced {s : State} (h : s.Balanced) : s.takeReads.Balanced := by
  refine State.takeReads_keeps (fun s p x rest hfree hlist hs => ?_) h
  rw [State.balanced_iff, State.heldOf_none hfree] at hs
  have others : ∀ q, q ≠ p → 0 = owing (fun _ => 0) p q := fun q hq => by simp [owing, hq]
  have removed : (s.removeRead p rest).BalancedWith (owing (fun _ => 0) p) := by
    refine State.BalancedWith.creditCheck ?_ p
    refine State.BalancedWith.of_intake (hs.withIntake p ?_ others) rfl
    simpa [owing] using (hs p).taken hlist
  have free : (s.removeRead p rest).passage.held = none := by
    unfold State.removeRead
    rw [(State.creditCheck_frame _ p).passage]
    exact hfree
  rcases s.takeRead_cases p x rest with ⟨point, -, e⟩ | e
  · rw [e, State.balanced_iff, State.heldOf_some (x := holdRead (s.removeRead p rest) p point x) rfl]
    exact removed.of_intake rfl
  · have counted := removed.of_intake ((s.removeRead p rest).count_frame .readDropped p).intake
    have still : (((s.removeRead p rest).count .readDropped p).returnCredit p).passage.held = none := by
      rw [(State.returnCredit_frame _ p).passage, (State.count_frame _ _ _).passage, free]
    rw [e, State.balanced_iff, State.heldOf_none still]
    exact counted.returnCredit

/-- The account of one port changes, the held read does not. -/
theorem State.Balanced.withIntake {s : State} (h : s.Balanced) (p : Port) {m : MatIntake}
    (hm : m.Balanced (s.heldOf p)) : (s.withIntake p m).Balanced :=
  State.BalancedWith.withIntake (s := s) h p hm fun _ _ => rfl

theorem State.Balanced.creditCheck {s : State} (h : s.Balanced) (p : Port) : (s.creditCheck p).Balanced := by
  have held : (s.creditCheck p).heldOf = s.heldOf :=
    State.heldOf_eq (State.heldPort_of_passage (s.creditCheck_frame p).passage)
  rw [State.balanced_iff, held]
  exact State.BalancedWith.creditCheck h p

theorem State.Balanced.hearMat {s : State} (h : s.Balanced) (p : Port) : (s.hearMat p).Balanced := by
  unfold State.hearMat
  split
  · exact h.withIntake p ((h.account p).heard (beq_iff_eq.mp ‹_›) _)
  · exact h

theorem State.Balanced.openSession {s : State} (h : s.Balanced) (p : Port) : (s.openSession p).Balanced :=
  h.withIntake p ((h.account p).opened _)

theorem State.Balanced.acceptRead {s : State} (h : s.Balanced) {p : Port} (hup : s.intake[p].link = .up) {seq : Byte}
    (x : IntakeRead) (hin : seqDistance s.intake[p] seq < s.intake[p].outstanding) :
    (s.acceptRead p (seqDistance s.intake[p] seq) seq x).Balanced := by
  have lost : SameHeld s (s.countTimes .readLost p (seqDistance s.intake[p] seq)) := by
    have marks := s.countTimes_marks .readLost p (seqDistance s.intake[p] seq)
    exact ⟨marks.intake, State.heldPort_of_passage marks.passage⟩
  have counted := lost.balanced h
  have held := congrFun (State.heldOf_eq lost.port) p
  simp only [State.acceptRead]
  split
  · refine State.Balanced.creditCheck ((SameHeld.of_frame (State.count_frame _ _ _)).balanced ?_) p
    exact counted.withIntake p (held ▸ (h.account p).refunded hup seq)
  · have joined := counted.withIntake p (held ▸ (h.account p).accepted hup hin ‹_›)
    have marked := (SameHeld.of_frame (State.count_frame _ .readAccepted p)).balanced joined
    refine State.takeReads_balanced ?_
    split
    · exact marked
    · exact marked.creditCheck p

theorem State.Balanced.classifyRead {s : State} (h : s.Balanced) {p : Port} (hup : s.intake[p].link = .up) (seq : Byte)
    (x : IntakeRead) : (s.classifyRead p seq x).Balanced := by
  have dropped := (SameHeld.of_frame (s.count_frame .readDropped p)).balanced h
  simp only [State.classifyRead]
  split_ifs
  · exact (SameHeld.of_frame (State.raise_frame _ _)).balanced dropped
  · exact h.acceptRead hup x ‹_›
  · exact dropped

/-- The Race Reset changes each port's account once (R34). -/
theorem State.resetIntakes_intake (s : State) (p : Port) :
    ((List.finRange 12).foldl (fun x p => x.resetIntake p) s).intake[p] = s.intake[p].raceReset (s.heldOf p) := by
  have main : ∀ (ps : List Port) (s : State), ps.Nodup → (ps.foldl (fun x p => x.resetIntake p) s).intake[p] =
      if p ∈ ps then s.intake[p].raceReset (s.heldOf p) else s.intake[p] := by
    intro ps
    induction ps with
    | nil => intro s _; simp
    | cons q ps ih =>
      intro s hn
      obtain ⟨hq, hn⟩ := List.nodup_cons.1 hn
      have same : (s.resetIntake q).heldOf = s.heldOf :=
        State.heldOf_eq (State.heldPort_of_passage (s.resetIntake_frame q).passage)
      have written : (s.resetIntake q).intake = s.intake.set q (s.intake[q].raceReset (s.heldOf q)) := by
        simp only [State.resetIntake]
        split <;> rfl
      rw [List.foldl_cons, ih _ hn, same, written]
      by_cases e : p = q
      · subst e
        simp [hq]
      · have other : (s.intake.set q (s.intake[q].raceReset (s.heldOf q)))[p] = s.intake[p] :=
          Vector.getElem_set_ne _ _ fun eq => e (Fin.ext eq.symm)
        simp [e, other, -Fin.getElem_fin]
  rw [main _ _ (List.nodup_finRange 12), if_pos (List.mem_finRange p)]

theorem beginRaceReset_balanced {s : State} (h : s.Balanced) (l : Side) (tag : Byte) :
    (beginRaceReset l tag s).Keeps State.Balanced := by
  refine State.unlessResetting_keeps fun _ => ?_
  have folded : ∀ p : Port, ((List.finRange 12).foldl (fun x p => x.resetIntake p) s).intake[p].Balanced 0 := fun p => by
    rw [State.resetIntakes_intake]
    exact (h.account p).raceReset
  generalize (List.finRange 12).foldl (fun x p => x.resetIntake p) s = t at folded
  have emptied : t.resetBlocks.Balanced := by
    rw [State.balanced_iff, State.heldOf_none rfl]
    exact folded
  exact emptied

theorem exec_balanced (i : Instr) (s t : State) (hs : s.Balanced) (h : exec i s = .next t) : t.Balanced := by
  have hear : ∀ (l : Side) (u : State), u.Balanced → (u.hearControl l).Balanced := fun l u hu => hu
  have send : ∀ (u : State) (m : Sent), u.Balanced → (u.transmit m).Balanced := fun u m hu => hu
  cases hw : touches [.intake, .passage] i with
  | false =>
    exact SameHeld.balanced ⟨read_of_not_touches hw h .intake (by decide), State.heldPort_of_passage (read_of_not_touches hw h .passage (by decide))⟩ hs
  | true =>
    cases i <;> first | exact Bool.noConfusion hw | skip
    case powerOn =>
      cases h
      intro p
      rw [State.portBalanced_iff]
      simpa [State.reset, State.heldOf, PassageUnit.reset] using MatIntake.Balanced.reset
    case stationReset cause =>
      have reset : ∀ rc, (s.stationReset rc).Balanced := fun rc p => by
        rw [State.portBalanced_iff]
        simpa [State.stationReset, State.heldOf, PassageUnit.reset] using MatIntake.Balanced.reset
      simp only [exec, execStationReset, Host.Outcome.next.injEq] at h
      subst h
      cases cause with
      | resetLine => exact reset _
      | restart =>
        simp only
        split
        · exact reset _
        · exact hs
    case startUpEnd =>
      rcases exec_startUpEnd_cases h with rfl | ⟨_, u, hu, rfl⟩
      · exact hs
      · have ended : s.endStartUp.Balanced := hs
        exact State.takeReads_balanced ((SameHeld.of_frame hu).balanced ended)
    case matHello p =>
      simp only [exec, execMatHello, Host.Outcome.next.injEq] at h
      subst h
      split
      · exact State.Balanced.openSession (s := s.withAlign p _) hs p
      · exact hs.openSession p
    case read p seq chip dtime level =>
      simp only [exec, execRead, Host.Outcome.next.injEq] at h
      subst h
      split
      · rename_i hlink
        have hup : s.intake[p].link = .up := beq_iff_eq.mp hlink
        refine (hs.hearMat p).classifyRead ?_ _ _
        rw [State.hearMat_of_up hup, State.withIntake_same]
        exact hup
      · exact (SameHeld.of_frame (State.count_frame _ _ _)).balanced hs
    case syncReport p d =>
      simp only [exec, execSyncReport, Host.Outcome.next.injEq] at h
      subst h
      exact (SameHeld.of_frame (State.takeReport_frame p d)).balanced (hs.hearMat p)
    case matSilenceDeadline p =>
      simp only [exec, execMatSilenceDeadline, Host.Outcome.next.injEq] at h
      subst h
      split
      · exact (SameHeld.of_frame (State.raise_frame _ _)).balanced (hs.withIntake p (hs.account p).silenced)
      · exact hs
    case readCompletion =>
      simp only [exec, execReadCompletion, Host.Outcome.next.injEq] at h
      subst h
      split
      · exact hs
      · rename_i x hheld
        have finished := (keptByClosing_sameHeld s).finishRead x ⟨rfl, rfl⟩
        have owed : s.BalancedWith (owing (fun _ => 0) x.port) := State.heldOf_some hheld ▸ (s.balanced_iff).mp hs
        have freed : (((s.finishRead x).withHeld none).returnCredit x.port).Balanced := by
          have free : (((s.finishRead x).withHeld none).returnCredit x.port).passage.held = none := by
            rw [(State.returnCredit_frame _ _).passage]; rfl
          rw [State.balanced_iff, State.heldOf_none free]
          exact State.BalancedWith.returnCredit (owed.of_intake finished.intake)
        exact State.takeReads_balanced (((keptByClosing_sameHeld _).closeTouched x ⟨rfl, rfl⟩).balanced freed)
    case closeDeadline p chip =>
      simp only [exec, execCloseDeadline, Host.Outcome.next.injEq] at h
      subst h
      split
      · exact hs
      · split
        · exact ((keptByClosing_sameHeld s).closePassage _ _ ⟨rfl, rfl⟩).balanced hs
        · exact hs
    case startClock l tag preset =>
      refine exec_keeps_of_handling (i := .startClock l tag preset) rfl (hear l) send (fun u hu _ _ => ?_) hs h
      refine State.unlessResetting_keeps fun _ => Verdict.keeps_ite (fun _ => trivial) fun _ => ?_
      generalize (preset.map (·.toNat)).getD 0 = v
      exact (SameHeld.of_frame (State.reachValue_frame v)).balanced
        ((State.voidPassages_sameHeld _).balanced (s := (u.withClock _).clearAlignment) hu)
    case setPort l tag port point allowance =>
      refine exec_keeps_of_handling (i := .setPort l tag port point allowance) rfl (hear l) send (fun u hu _ _ => ?_) hs h
      refine State.unlessResetting_keeps fun _ => ?_
      split
      · split
        · trivial
        · refine Verdict.keeps_ite (fun _ => trivial) fun _ => Verdict.keeps_ite (fun _ => trivial) fun _ => ?_
          exact (((keptByClosing_sameHeld u).clearPassages _ _ ⟨rfl, rfl⟩).trans
            (State.resetHeld_sameHeld _ _)).balanced hu
      · trivial
    case setLimits l tag a =>
      refine exec_keeps_of_handling (i := .setLimits l tag a) rfl (hear l) send (fun u hu _ _ => ?_) hs h
      refine State.unlessResetting_keeps fun _ => ?_
      split
      · trivial
      rename_i m _
      have overdue : ∀ v : State, SameHeld v ((List.finRange 12).foldl (fun x p => x.closeOverdue p) v) :=
        State.foldl_sameHeld (fun v p => (keptByClosing_sameHeld v).closeOverdue p ⟨rfl, rfl⟩) _
      have moved : ∀ v : State, SameHeld v ((List.finRange 12).foldl (fun x p => x.moveStale p) v) :=
        State.foldl_sameHeld (fun v p => SameHeld.of_frame (State.moveStale_frame p)) _
      have written : (u.withRegistry { u.registry with limits := m }).Balanced := hu
      simp only [State.applyLimits, Verdict.ok, Verdict.Keeps]
      split_ifs
      · exact (moved _).balanced ((overdue _).balanced written)
      · exact (moved _).balanced written
      · exact (overdue _).balanced written
      · exact written
    case raceReset l tag =>
      exact exec_keeps_of_handling (i := .raceReset l tag) rfl (hear l) send
        (fun u hu _ _ => beginRaceReset_balanced hu l tag) hs h
    case raceResetCompletion =>
      simp only [exec, execRaceResetCompletion, Host.Outcome.next.injEq] at h
      subst h
      split
      · exact State.takeReads_balanced ((SameHeld.of_frame State.answerReset_frame).balanced hs)
      · exact hs

end Sys2Proof.Machine

/-! The passage lists (chapter 4): what each operation of the Passage Unit leaves of them, and the proof that every step
keeps them within their bounds. -/

namespace Sys2Proof.Machine

set_option Elab.async false

/-- A passage list within its bounds, of a port that feeds a point unless the list is empty (R55, R61). -/
def PassageListSound (fed : Bool) (l : List Passage) : Prop :=
  l.length ≤ Config.passageListSize ∧ (chipsOf l).Nodup ∧ (l ≠ [] → fed = true)

theorem PassageListSound.nil (fed : Bool) : PassageListSound fed [] :=
  ⟨Nat.zero_le _, List.nodup_nil, fun h => absurd rfl h⟩

theorem PassageListSound.sublist {fed : Bool} {l m : List Passage} (h : PassageListSound fed m) (hsub : l.Sublist m) :
    PassageListSound fed l := by
  refine ⟨hsub.length_le.trans h.1, h.2.1.sublist (hsub.map _), fun hne => h.2.2 ?_⟩
  rintro rfl
  exact hne (List.sublist_nil.mp hsub)

theorem PassageListSound.concat {fed : Bool} {l : List Passage} (h : PassageListSound fed l) {x : Passage}
    (hlen : l.length < Config.passageListSize) (hnew : x.chip ∉ chipsOf l) (hfed : fed = true) :
    PassageListSound fed (l ++ [x]) := by
  refine ⟨by simpa using hlen, ?_, fun _ => hfed⟩
  have chips : chipsOf (l ++ [x]) = chipsOf l ++ [x.chip] := by simp [chipsOf]
  rw [chips, List.nodup_append]
  refine ⟨h.2.1, List.nodup_singleton _, fun a ha b hb e => ?_⟩
  rw [List.mem_singleton] at hb
  exact hnew (hb ▸ e ▸ ha)

theorem chipsOf_apply (l : List Passage) (h : HeldRead) :
    chipsOf (l.map fun x => if x.chip == h.chip then x.apply h else x) = chipsOf l := by
  unfold chipsOf
  rw [List.map_map]
  refine List.map_congr_left fun x _ => ?_
  simp only [Function.comp_apply, Passage.apply]
  split <;> rfl

/-- The passage lists of a state alone. -/
def State.ListsSound (s : State) : Prop :=
  ∀ p : Port, PassageListSound s.registry.ports[p].point.isSome s.passage.lists[p]

/-- A held read that is AS TAKEN has its port's point (R62). -/
def State.HeldPointed (s : State) : Prop :=
  ∀ h, s.passage.held = some h → h.standing = .asTaken → s.registry.ports[h.port].point = some h.point

theorem State.passagesSound_iff (s : State) : s.PassagesSound ↔ s.ListsSound ∧ s.HeldPointed := Iff.rfl

section
variable {s t : State}

theorem State.ListsSound.of_eq (h : s.ListsSound) (hl : t.passage.lists = s.passage.lists)
    (hp : t.registry.ports = s.registry.ports) : t.ListsSound := by
  unfold State.ListsSound
  rw [hl, hp]
  exact h

theorem State.ListsSound.of_frame {bs : List Block} (h : s.ListsSound) (f : Frame bs s t)
    (hl : Block.passage ∉ bs := by decide) (hp : Block.ports ∉ bs := by decide) : t.ListsSound :=
  h.of_eq (congrArg PassageUnit.lists (f.passage hl)) (f.ports hp)

theorem State.PassagesSound.of_eq (h : s.PassagesSound) (hu : t.passage = s.passage)
    (hp : t.registry.ports = s.registry.ports) : t.PassagesSound := by
  unfold State.PassagesSound
  rw [hu, hp]
  exact h

theorem State.PassagesSound.of_frame {bs : List Block} (h : s.PassagesSound) (f : Frame bs s t)
    (hu : Block.passage ∉ bs := by decide) (hp : Block.ports ∉ bs := by decide) : t.PassagesSound :=
  h.of_eq (f.passage hu) (f.ports hp)

theorem State.ListsSound.withPassages (h : s.ListsSound) (p : Port) {l : List Passage}
    (hl : PassageListSound s.registry.ports[p].point.isSome l) : (s.withPassages p l).ListsSound := by
  intro q
  by_cases e : q = p
  · subst e
    rw [State.withPassages_same]
    exact hl
  · rw [State.withPassages_other _ _ e]
    exact h q

/-- Without a held read the lists alone count. -/
theorem State.passagesSound_of_free (h : s.ListsSound) (hfree : s.passage.held = none) : s.PassagesSound :=
  ⟨h, fun x hx => by rw [hfree] at hx; exact nomatch hx⟩

/-! ## Closing -/

theorem State.ListsSound.closePassage (h : s.ListsSound) (p : Port) (x : Passage) : (s.closePassage p x).ListsSound :=
  (h.withPassages p ((h p).sublist List.eraseP_sublist)).of_frame (State.closeCrossing_frame _ p x)

theorem State.ListsSound.closeOverdue (h : s.ListsSound) (p : Port) : (s.closeOverdue p).ListsSound :=
  (h.withPassages p ((h p).sublist List.filter_sublist)).of_frame (State.closeAll_frame _ p _)

theorem State.clearPassages_lists (s : State) (p : Port) (discard : Bool) :
    (s.clearPassages p discard).passage = (s.withPassages p []).passage := by
  simp only [State.clearPassages]
  split
  · rfl
  · exact (State.closeAll_frame _ p _).passage

theorem keptByClosing_held (x : Option HeldRead) : KeptByClosing fun t => t.passage.held = x where
  count t c q h := (congrArg PassageUnit.held (t.count_frame c q).passage).trans h
  crossing t i b h := (congrArg PassageUnit.held (t.takeCrossing_frame i b).passage).trans h
  lists _ _ h := h

/-- Closing writes neither the held read nor a port. -/
theorem State.PassagesSound.of_closing (h : s.PassagesSound) (hl : t.ListsSound) (hh : t.passage.held = s.passage.held)
    (hp : t.registry.ports = s.registry.ports) : t.PassagesSound :=
  ⟨hl, by rw [hh, hp]; exact h.2⟩

theorem State.PassagesSound.closePassage (h : s.PassagesSound) (p : Port) (x : Passage) :
    (s.closePassage p x).PassagesSound :=
  h.of_closing (State.ListsSound.closePassage h.1 p x) ((keptByClosing_held _).closePassage p x rfl)
    (State.closePassage_frame p x).ports

theorem State.PassagesSound.closeOverdue (h : s.PassagesSound) (p : Port) : (s.closeOverdue p).PassagesSound :=
  h.of_closing (State.ListsSound.closeOverdue h.1 p) ((keptByClosing_held _).closeOverdue p rfl)
    (State.closeOverdue_frame p).ports

/-! ## Applying a read (R56, R57, R58) -/

theorem State.passageOf_eq_none {p : Port} {chip : Word32} (h : s.passageOf p chip = none) :
    chip ∉ chipsOf s.passage.lists[p] := by
  intro hmem
  obtain ⟨x, hx, rfl⟩ := List.mem_map.mp hmem
  exact List.find?_eq_none.mp h x hx (beq_self_eq_true _)

theorem State.ListsSound.openPassage (h : s.ListsSound) {x : HeldRead}
    (hlen : s.passage.lists[x.port].length < Config.passageListSize) (hnew : x.chip ∉ chipsOf s.passage.lists[x.port])
    (hfed : s.registry.ports[x.port].point.isSome = true) : (s.openPassage x).ListsSound :=
  h.withPassages x.port ((h x.port).concat hlen hnew hfed)

/-- The oldest passage closes and leaves the later ones. -/
theorem State.forceOldest_lists (s : State) (p : Port) :
    (s.forceOldest p).passage.lists[p] = s.passage.lists[p].tail := by
  unfold State.forceOldest
  split
  · rename_i h; rw [h]; rfl
  · rename_i x rest h
    rw [(State.count_frame _ _ _).passage, (State.closeCrossing_frame _ _ _).passage, State.withPassages_same, h]
    rfl

theorem State.ListsSound.forceOldest (h : s.ListsSound) (p : Port) : (s.forceOldest p).ListsSound := by
  unfold State.forceOldest
  split
  · exact h
  · rename_i x rest hl
    have forced := h.withPassages p (l := rest) ((h p).sublist (hl ▸ List.sublist_cons_self x rest))
    exact (forced.of_frame (State.closeCrossing_frame _ p x)).of_frame (State.count_frame _ _ _)

theorem State.ListsSound.applyRead (h : s.ListsSound) (x : HeldRead)
    (hfed : s.registry.ports[x.port].point.isSome = true) : (s.applyRead x).ListsSound := by
  have same := chipsOf_apply s.passage.lists[x.port] x
  unfold State.applyRead
  split
  · refine h.withPassages x.port ⟨?_, ?_, fun _ => hfed⟩
    · rw [List.length_map]; exact (h x.port).1
    · rw [same]; exact (h x.port).2.1
  · rename_i hnone
    have hnew := State.passageOf_eq_none hnone
    split
    · exact h.openPassage ‹_› hnew hfed
    · rename_i hfull
      have ports : (s.forceOldest x.port).registry.ports = s.registry.ports := (State.forceOldest_frame x.port).ports
      refine (h.forceOldest x.port).openPassage ?_ ?_ (ports ▸ hfed)
      · rw [State.forceOldest_lists, List.length_tail]
        have := (h x.port).1
        have pos : 0 < Config.passageListSize := by decide
        omega
      · rw [State.forceOldest_lists]
        exact fun hmem => hnew (((List.tail_sublist _).map _).subset hmem)

theorem State.ListsSound.finishRead (h : s.PassagesSound) {x : HeldRead} (hheld : s.passage.held = some x) :
    (s.finishRead x).ListsSound := by
  unfold State.finishRead
  split
  · exact State.ListsSound.applyRead h.1 x (by rw [h.2 x hheld ‹_›]; rfl)
  · exact State.ListsSound.of_frame h.1 (State.handOnRead_frame x)
  · exact h.1

theorem State.ListsSound.closeTouched (h : s.ListsSound) (x : HeldRead) : (s.closeTouched x).ListsSound := by
  unfold State.closeTouched
  split
  · split
    · split
      · exact h.closePassage _ _
      · exact h
    · exact h
  · exact h

/-! ## Takes -/

theorem State.removeRead_passage (s : State) (p : Port) (rest : List IntakeRead) :
    (s.removeRead p rest).passage = { s.passage with lastServed := p } := (State.creditCheck_frame _ p).passage

theorem State.removeRead_registry (s : State) (p : Port) (rest : List IntakeRead) :
    (s.removeRead p rest).registry = s.registry := (State.creditCheck_takes _ p).registry

theorem State.PassagesSound.takeReads (h : s.PassagesSound) : s.takeReads.PassagesSound := by
  refine State.takeReads_keeps (fun s p x rest hfree _ hs => ?_) h
  have hlists : (s.removeRead p rest).ListsSound := State.ListsSound.of_eq hs.1
    (by rw [s.removeRead_passage]) (congrArg Registry.ports (s.removeRead_registry p rest))
  rcases s.takeRead_cases p x rest with ⟨point, hpoint, e⟩ | e
  · rw [e]
    refine ⟨hlists, fun y hy _ => ?_⟩
    cases hy
    rw [State.withHeld_registry, s.removeRead_registry]
    exact hpoint
  · rw [e]
    have free : (s.removeRead p rest).passage.held = none := by rw [s.removeRead_passage]; exact hfree
    exact ((State.passagesSound_of_free hlists free).of_frame (State.count_frame _ .readDropped p)).of_frame
      (State.returnCredit_frame _ p)

/-! ## SET PORT and the clock -/

/-- SET PORT leaves no passage of its port and no AS TAKEN read of it, so the port may have any point (R61, R62). -/
theorem State.PassagesSound.assignPort (h : s.PassagesSound) (p : Port) (point : Option Point) (allowance : Nat) :
    (s.assignPort p point allowance).PassagesSound := by
  have lists : ((s.clearPassages p point.isNone).resetHeld p).passage.lists = (s.withPassages p []).passage.lists := by
    rw [← s.clearPassages_lists p point.isNone]
    unfold State.resetHeld
    split
    · split <;> rfl
    · rfl
  have ports : ((s.clearPassages p point.isNone).resetHeld p).registry.ports = s.registry.ports :=
    ((State.resetHeld_frame p).ports).trans (State.clearPassages_frame p _).ports
  have other : ∀ q : Port, q ≠ p → (s.assignPort p point allowance).registry.ports[q] = s.registry.ports[q] := by
    intro q hq
    show (((s.clearPassages p point.isNone).resetHeld p).registry.ports.set p _)[q] = _
    rw [ports]
    exact Vector.getElem_set_ne _ _ fun eq => hq (Fin.ext eq.symm)
  refine ⟨fun q => ?_, fun x hx hstanding => ?_⟩
  · have hlists : (s.assignPort p point allowance).passage.lists = (s.withPassages p []).passage.lists := lists
    rw [hlists]
    by_cases e : q = p
    · subst e
      rw [State.withPassages_same]
      exact PassageListSound.nil _
    · rw [State.withPassages_other _ _ e, other q e]
      exact h.1 q
  · have held : (s.clearPassages p point.isNone).passage.held = s.passage.held := by
      rw [State.clearPassages_lists]; rfl
    have hx' : ((s.clearPassages p point.isNone).resetHeld p).passage.held = some x := hx
    unfold State.resetHeld at hx'
    rw [held] at hx'
    split at hx'
    · rename_i y hy
      split at hx'
      · cases hx'; exact nomatch hstanding
      · rename_i hnot
        rw [held, hy] at hx'
        cases hx'
        have ne : x.port ≠ p := fun e => hnot (by simp [e, hstanding])
        rw [other x.port ne]
        exact h.2 x hy hstanding
    · rename_i hnone
      rw [held, hnone] at hx'
      exact nomatch hx'

theorem State.voidPassages_passagesSound (s : State) : s.voidPassages.PassagesSound := by
  refine ⟨fun p => ?_, fun x hx hstanding => ?_⟩
  · have empty : s.voidPassages.passage.lists[p] = [] := by simp [State.voidPassages]
    rw [empty]
    exact PassageListSound.nil _
  · obtain ⟨y, -, rfl⟩ := Option.map_eq_some_iff.mp hx
    exact nomatch hstanding

theorem State.passagesSound_of_reset (hl : s.passage.lists = Vector.replicate 12 []) (hfree : s.passage.held = none) :
    s.PassagesSound :=
  State.passagesSound_of_free (fun p => by rw [hl]; simpa using PassageListSound.nil _) hfree

end

/-! ## Every command -/

theorem exec_passagesSound (i : Instr) (s t : State) (hs : s.PassagesSound) (h : exec i s = .next t) :
    t.PassagesSound := by
  have hear : ∀ (l : Side) (u : State), u.PassagesSound → (u.hearControl l).PassagesSound := fun l u hu => hu
  have send : ∀ (u : State) (m : Sent), u.PassagesSound → (u.transmit m).PassagesSound := fun u m hu => hu
  cases hw : touches [.passage, .ports] i with
  | false =>
    exact hs.of_eq (read_of_not_touches hw h .passage (by decide)) (read_of_not_touches hw h .ports (by decide))
  | true =>
    cases i <;> first | exact Bool.noConfusion hw | skip
    case powerOn => cases h; exact State.passagesSound_of_reset rfl rfl
    case stationReset cause =>
      simp only [exec, execStationReset, Host.Outcome.next.injEq] at h
      subst h
      cases cause with
      | resetLine => exact State.passagesSound_of_reset rfl rfl
      | restart =>
        simp only
        split
        · exact State.passagesSound_of_reset rfl rfl
        · exact hs
    case startUpEnd =>
      rcases exec_startUpEnd_cases h with rfl | ⟨_, u, hu, rfl⟩
      · exact hs
      · have ports : s.endStartUp.registry.ports = s.registry.ports := by
          simp only [State.endStartUp, State.withRegistry, State.withClock, Registry.finishReset]
          split <;> rfl
        exact State.PassagesSound.takeReads ((hs.of_eq (t := s.endStartUp) rfl ports).of_frame hu)
    case read p seq chip dtime level =>
      have marked : ∀ u : State, u.PassagesSound → (u.count .readDropped p).PassagesSound := fun u hu =>
        hu.of_frame (u.count_frame _ _)
      have lost : ∀ (u : State) n, u.PassagesSound → (u.countTimes .readLost p n).PassagesSound := fun u n hu =>
        hu.of_eq (u.countTimes_marks _ _ _).passage (congrArg Registry.ports (u.countTimes_marks _ _ _).registry)
      simp only [exec, execRead, Host.Outcome.next.injEq] at h
      subst h
      split
      · have heard := hs.of_frame (s.hearMat_frame p)
        generalize s.hearMat p = u at heard
        simp only [State.classifyRead]
        split_ifs
        · exact (marked u heard).of_frame (State.raise_frame _ _)
        · simp only [State.acceptRead]
          split
          · refine State.PassagesSound.of_frame ?_ (State.creditCheck_frame _ p)
            exact marked _ (lost u _ heard)
          · refine State.PassagesSound.takeReads ?_
            have accepted : ∀ m, (((u.countTimes .readLost p (seqDistance u.intake[p] seq)).withIntake p m).count
                .readAccepted p).PassagesSound := fun m =>
              State.PassagesSound.of_frame (s := (u.countTimes .readLost p _).withIntake p m) (lost u _ heard)
                (State.count_frame _ _ _)
            split
            · exact accepted _
            · exact (accepted _).of_frame (State.creditCheck_frame _ p)
        · exact marked u heard
      · exact marked s hs
    case readCompletion =>
      simp only [exec, execReadCompletion, Host.Outcome.next.injEq] at h
      subst h
      split
      · exact hs
      · rename_i x hheld
        have freed : (((s.finishRead x).withHeld none).returnCredit x.port).ListsSound :=
          State.ListsSound.of_frame (s := (s.finishRead x).withHeld none) (State.ListsSound.finishRead hs hheld)
            (State.returnCredit_frame _ _)
        have free : (((s.finishRead x).withHeld none).returnCredit x.port).passage.held = none := by
          rw [(State.returnCredit_frame _ _).passage]; rfl
        exact (State.passagesSound_of_free (freed.closeTouched x)
          ((keptByClosing_held none).closeTouched x free)).takeReads
    case closeDeadline p chip =>
      simp only [exec, execCloseDeadline, Host.Outcome.next.injEq] at h
      subst h
      split
      · exact hs
      · split
        · exact hs.closePassage _ _
        · exact hs
    case startClock l tag preset =>
      refine exec_keeps_of_handling (i := .startClock l tag preset) rfl (hear l) send (fun u hu _ _ => ?_) hs h
      refine State.unlessResetting_keeps fun _ => Verdict.keeps_ite (fun _ => trivial) fun _ => ?_
      generalize (preset.map (·.toNat)).getD 0 = v
      exact (State.voidPassages_passagesSound _).of_frame (State.reachValue_frame v)
    case setPort l tag port point allowance =>
      refine exec_keeps_of_handling (i := .setPort l tag port point allowance) rfl (hear l) send (fun u hu _ _ => ?_) hs h
      refine State.unlessResetting_keeps fun _ => ?_
      split
      · split
        · trivial
        · exact Verdict.keeps_ite (fun _ => trivial) fun _ => Verdict.keeps_ite (fun _ => trivial) fun _ =>
            hu.assignPort _ _ _
      · trivial
    case setLimits l tag a =>
      refine exec_keeps_of_handling (i := .setLimits l tag a) rfl (hear l) send (fun u hu _ _ => ?_) hs h
      refine State.unlessResetting_keeps fun _ => ?_
      split
      · trivial
      rename_i m _
      have overdue : ∀ (ps : List Port) {v : State}, v.PassagesSound →
          (ps.foldl (fun x p => x.closeOverdue p) v).PassagesSound := fun ps => by
        induction ps with
        | nil => exact fun hv => hv
        | cons p ps ih => exact fun hv => ih (hv.closeOverdue p)
      have moved : ∀ {v : State}, v.PassagesSound →
          ((List.finRange 12).foldl (fun x p => x.moveStale p) v).PassagesSound := fun hv =>
        hv.of_frame (State.foldl_frame (fun _ p => State.moveStale_frame p) _)
      have written : (u.withRegistry { u.registry with limits := m }).PassagesSound := hu
      simp only [State.applyLimits, Verdict.ok, Verdict.Keeps]
      split_ifs
      · exact moved (overdue _ written)
      · exact moved written
      · exact overdue _ written
      · exact written
    case raceReset l tag =>
      refine exec_keeps_of_handling (i := .raceReset l tag) rfl (hear l) send (fun u hu _ _ => ?_) hs h
      refine State.unlessResetting_keeps fun _ => ?_
      generalize (List.finRange 12).foldl (fun x p => x.resetIntake p) u = v
      have emptied : v.resetBlocks.PassagesSound := State.passagesSound_of_reset rfl rfl
      exact emptied
    case raceResetCompletion =>
      simp only [exec, execRaceResetCompletion, Host.Outcome.next.injEq] at h
      subst h
      split
      · have answered : s.answerReset.PassagesSound := hs.of_frame State.answerReset_frame
        exact State.PassagesSound.takeReads (s := s.answerReset.withRegistry s.answerReset.registry.completed) answered
      · exact hs

/-- Settles O54: every credit of an UP port is with its decoder, its list or the held read after each command, and a
passage joins a list only for the point that the port feeds. -/
theorem stepKeepsBalanceAndPassages : Obligations.StepKeepsBalanceAndPassages := by
  unfold Obligations.StepKeepsBalanceAndPassages
  exact ⟨fun _ _ hs h => step_keeps (P := State.Balanced) (fun _ _ hs => hs) exec_balanced hs h,
    fun _ _ hs h => step_keeps (P := State.PassagesSound) (fun _ _ hs => hs) exec_passagesSound hs h⟩

end Sys2Proof.Machine

/-! The working settings and the store (chapters 5, 9 and 12): which course entries, assignments, limits and profiles are
accepted, and the proof that every step keeps the settings and the store sound. -/

namespace Sys2Proof.Machine

set_option Elab.async false

/-! ## The course (5.1) -/

theorem Course.set_same (course : Course) (p : Point) (x : Option CoursePoint) : (course.set p x)[p] = x := by simp

theorem Course.set_other (course : Course) {p q : Point} (x : Option CoursePoint) (h : q ≠ p) :
    (course.set p x)[q] = course[q] := Vector.getElem_set_ne _ _ fun e => h (Fin.ext e.symm)

/-- A distance fits above every lower point (R69 check 4). -/
theorem lt_of_distanceFits {course : Course} (h : Course.Sound course) {p q : Point} {d : Nat} {y : CoursePoint}
    (hfits : distanceFits course p d = true) (hq : q < p) (hy : course[q] = some y) : y.distance < d := by
  obtain ⟨-, -, hrising, -⟩ := h
  have hp : p.val ≠ 0 := by have := Fin.lt_def.mp hq; omega
  simp only [distanceFits, hp, if_false, Bool.and_eq_true, Option.any_eq_true, decide_eq_true_eq] at hfits
  obtain ⟨⟨-, dl, hlower, hlt⟩, -⟩ := hfits
  obtain ⟨r, hr, x, hx, rfl⟩ := (lowerDistance_eq_some course p dl).mp hlower
  rcases lt_or_eq_of_le (show q ≤ r from Fin.le_def.mpr (by have := Fin.lt_def.mp hq; omega)) with hqr | rfl
  · exact (hrising r q x y hqr hx hy).trans hlt
  · rw [hx] at hy
    cases hy
    exact hlt

/-- A distance fits below every higher point (R69 check 4). -/
theorem distanceFits_lt {course : Course} (h : Course.Sound course) {p q : Point} {d : Nat} {x : CoursePoint}
    (hfits : distanceFits course p d = true) (hq : p < q) (hx : course[q] = some x) : d < x.distance := by
  obtain ⟨hcontiguous, -, hrising, -⟩ := h
  have hval := Fin.lt_def.mp hq
  have hnext : p.val + 1 < 10 := by omega
  obtain ⟨r, hrval⟩ : ∃ r : Point, r.val = p.val + 1 := ⟨⟨p.val + 1, hnext⟩, rfl⟩
  have hr : r ≤ q := Fin.le_def.mpr (hrval ▸ hval)
  obtain ⟨y, hy⟩ : ∃ y, course[r] = some y := by
    rcases lt_or_eq_of_le hr with hlt | e
    · exact Option.isSome_iff_exists.mp (hcontiguous q r hlt (by rw [hx]; rfl))
    · exact ⟨x, e ▸ hx⟩
  have hupper : upperDistance course p = some y.distance := (upperDistance_eq_some course p _).mpr ⟨r, hrval, y, hy, rfl⟩
  have hlt : d < y.distance := by
    simp only [distanceFits, Bool.and_eq_true, hupper, Option.all_some, decide_eq_true_eq] at hfits
    exact hfits.2
  rcases lt_or_eq_of_le hr with hrq | e
  · exact hlt.trans (hrising q r x y hrq hx hy)
  · subst e
    rw [hx] at hy
    cases hy
    exact hlt

/-- An entry whose distance fits keeps the course in order (R68, R69). -/
theorem Course.set_sound {course : Course} (h : Course.Sound course) {p : Point} {x : CoursePoint}
    (hfits : distanceFits course p x.distance = true) (hmax : x.distance ≤ 60000) :
    Course.Sound (course.set p (some x)) := by
  obtain ⟨hcontiguous, hzero, hrising, hbound⟩ := id h
  refine ⟨fun q r hrq hq => ?_, fun y hy => ?_, fun q r y z hrq hy hz => ?_, fun q y hy => ?_⟩
  · by_cases hr : r = p
    · subst hr
      rw [Course.set_same]
      rfl
    rw [Course.set_other _ _ hr]
    by_cases hqp : q = p
    · subst hqp
      have hval : q.val ≠ 0 := by have := Fin.lt_def.mp hrq; omega
      simp only [distanceFits, hval, if_false, Bool.and_eq_true] at hfits
      exact (lowerConfigured_iff course q).mp hfits.1.1 r hrq
    · rw [Course.set_other _ _ hqp] at hq
      exact hcontiguous q r hrq hq
  · by_cases hp : (0 : Point) = p
    · subst hp
      rw [Course.set_same] at hy
      cases hy
      simp only [distanceFits, Bool.and_eq_true] at hfits
      simpa using hfits.1
    · rw [Course.set_other _ _ hp] at hy
      exact hzero y hy
  · by_cases hqp : q = p
    · subst hqp
      rw [Course.set_same] at hy
      cases hy
      rw [Course.set_other _ _ hrq.ne] at hz
      exact lt_of_distanceFits h hfits hrq hz
    rw [Course.set_other _ _ hqp] at hy
    by_cases hrp : r = p
    · subst hrp
      rw [Course.set_same] at hz
      cases hz
      exact distanceFits_lt h hfits hrq hy
    · rw [Course.set_other _ _ hrp] at hz
      exact hrising q r y z hrq hy hz
  · by_cases hqp : q = p
    · subst hqp
      rw [Course.set_same] at hy
      cases hy
      exact hmax
    · rw [Course.set_other _ _ hqp] at hy
      exact hbound q y hy

/-- The course without its finish is in order (R70). -/
theorem Course.clear_sound {course : Course} (h : Course.Sound course) {p : Point} (hfinish : course.finish = some p) :
    Course.Sound (course.set p none) := by
  obtain ⟨hcontiguous, hzero, hrising, hbound⟩ := h
  have kept : ∀ {q : Point} {y}, (course.set p none)[q] = some y → q ≠ p ∧ course[q] = some y := fun {q y} hy => by
    by_cases hqp : q = p
    · subst hqp
      rw [Course.set_same] at hy
      exact nomatch hy
    · rw [Course.set_other _ _ hqp] at hy
      exact ⟨hqp, hy⟩
  refine ⟨fun q r hrq hq => ?_, fun y hy => hzero y (kept hy).2, fun q r y z hrq hy hz => hrising q r y z hrq (kept hy).2
    (kept hz).2, fun q y hy => hbound q y (kept hy).2⟩
  obtain ⟨y, hy⟩ := Option.isSome_iff_exists.mp hq
  have hne := (kept hy).1
  have hle : q ≤ p := not_lt.mp fun hpq => by
    have absent := ((Course.finish_eq_some course p).mp hfinish).2 q hpq
    exact nomatch absent.symm.trans (kept hy).2
  rw [Course.set_other _ _ (hrq.trans_le hle).ne]
  exact hcontiguous q r hrq (by rw [(kept hy).2]; rfl)

/-! ## Ports (5.2) -/

/-- The assignments stay sound when the points they name stay configured. -/
theorem portsSound.of_course {course course' : Course} {ports : Vector PortAssignment 12} (h : portsSound course ports)
    (hcourse : ∀ (p : Port) q, ports[p].point = some q → course[q].isSome = true → course'[q].isSome = true) :
    portsSound course' ports :=
  ⟨fun p q hq => hcourse p q hq (h.1 p q hq), h.2.1, h.2.2⟩

/-- With its new assignment a port adds one to the ports that feed its point. -/
theorem feeds_set_le (ports : Vector PortAssignment 12) (p : Port) (x : PortAssignment) (q : Point) :
    (List.finRange 12).countP (fun r : Port => (ports.set p x)[r].point == some q) ≤
      (List.finRange 12).countP (fun r : Port => r != p && ports[r].point == some q) +
        if x.point = some q then 1 else 0 := by
  have split := List.countP_eq_countP_filter_add (List.finRange 12)
    (fun r : Port => (ports.set p x)[r].point == some q) (fun r : Port => r != p)
  have others : ((List.finRange 12).filter fun r : Port => r != p).countP
      (fun r : Port => (ports.set p x)[r].point == some q) =
      (List.finRange 12).countP (fun r : Port => r != p && ports[r].point == some q) := by
    rw [List.countP_filter]
    refine List.countP_congr fun r _ => ?_
    by_cases e : r = p
    · simp [e]
    · have same : (ports.set p x)[r] = ports[r] := Vector.getElem_set_ne _ _ fun eq => e (Fin.ext eq.symm)
      rw [same, Bool.and_comm]
  have own : ((List.finRange 12).filter fun r : Port => !(r != p)) = [p] := by
    have : (fun r : Port => !(r != p)) = fun r => r == p := by funext r; simp [bne]
    rw [this, List.filter_beq, List.count_eq_one_of_mem (List.nodup_finRange 12) (List.mem_finRange p)]
    rfl
  rw [split, others, own]
  have single : List.countP (fun r : Port => (ports.set p x)[r].point == some q) [p] =
      if x.point = some q then 1 else 0 := by
    simp [List.countP_cons]
  rw [single]

/-- A port that is unassigned, or fed to a configured point with one other port at most, leaves the assignments sound
(R72). -/
theorem portsSound.assign {course : Course} {ports : Vector PortAssignment 12} (h : portsSound course ports) {p : Port}
    {point : Option Point} {allowance : Nat} (hpoint : ∀ q, point = some q → course[q].isSome = true)
    (hfeeds : ∀ q, point = some q →
      (List.finRange 12).countP (fun r : Port => r != p && ports[r].point == some q) < Config.portsPerPoint)
    (hallowance : allowance ≤ 2000) : portsSound course (ports.set p { point, allowance }) := by
  obtain ⟨hconfigured, hcount, hallowances⟩ := h
  have other : ∀ {r : Port}, r ≠ p → (ports.set p { point, allowance })[r] = ports[r] := fun hr =>
    Vector.getElem_set_ne _ _ fun eq => hr (Fin.ext eq.symm)
  have own : (ports.set p { point, allowance })[p] = { point, allowance } := by simp
  refine ⟨fun r q hq => ?_, fun q => (feeds_set_le ports p _ q).trans ?_, fun r => ?_⟩
  · by_cases hr : r = p
    · subst hr
      rw [own] at hq
      exact hpoint q hq
    · rw [other hr] at hq
      exact hconfigured r q hq
  · dsimp only
    split
    · exact hfeeds q ‹_›
    · refine (Nat.le_of_eq (Nat.add_zero _)).trans (le_trans (List.countP_mono_left fun r _ hr => ?_) (hcount q))
      exact (Bool.and_eq_true _ _ ▸ hr).2
  · by_cases hr : r = p
    · subst hr
      rw [own]
      exact hallowance
    · rw [other hr]
      exact hallowances r

/-! ## Values in their ranges -/

theorem halfIn_bounds {lo hi : Nat} {v : Half} {n : Nat} (h : halfIn lo hi v = some n) : lo ≤ n ∧ n ≤ hi := by
  unfold halfIn at h
  split at h
  · cases h; assumption
  · exact nomatch h

theorem byteIn_bounds {lo hi : Nat} {v : Byte} {n : Nat} (h : byteIn lo hi v = some n) : lo ≤ n ∧ n ≤ hi := by
  unfold byteIn at h
  split at h
  · cases h; assumption
  · exact nomatch h

theorem optHalfIn_bounds {lo hi d : Nat} {v : Option Half} {n : Nat} (h : optHalfIn lo hi d v = some n)
    (hd : lo ≤ d ∧ d ≤ hi) : lo ≤ n ∧ n ≤ hi := by
  cases v with
  | none => cases h; exact hd
  | some x => exact halfIn_bounds h

/-- Limits that SET LIMITS accepts over sound ones are sound (R74). -/
theorem limitsOf_sound {a : LimitsArgs} {old m : Limits} (hold : old.Sound) (h : limitsOf a old = some m) : m.Sound := by
  obtain ⟨h1, h2, h3, h4, h5, h6⟩ := hold
  simp only [limitsOf, Option.bind_eq_bind, Option.bind_eq_some_iff] at h
  obtain ⟨_, e1, _, e2, _, e3, _, e4, _, e5, _, e6, e⟩ := h
  cases e
  exact ⟨optHalfIn_bounds e1 h1, optHalfIn_bounds e2 h2, optHalfIn_bounds e3 h3, optHalfIn_bounds e4 h4,
    optHalfIn_bounds e5 h5, optHalfIn_bounds e6 h6⟩

/-- A profile that SET PROFILE accepts is sound (R138). -/
theorem profileOf_sound {a : ProfileArgs} {x : Profile} (h : profileOf a = some x) : x.Sound := by
  simp only [profileOf, Option.bind_eq_bind, Option.bind_eq_some_iff] at h
  obtain ⟨_, -, _, hgap, _, hlead, _, hpace, _, hlines, _, hhold, _, hstale, _, -, _, hpoll, e⟩ := h
  cases e
  exact ⟨(halfIn_bounds hgap).2, (halfIn_bounds hlead).2, optHalfIn_bounds hpace (by decide), byteIn_bounds hlines,
    optHalfIn_bounds hhold (by decide), (optHalfIn_bounds hstale (by decide)).2, (optHalfIn_bounds hpoll (by decide)).2⟩

/-! ## The working settings -/

/-- The working settings of the state, part by part. -/
structure State.WorkingSound (s : State) : Prop where
  course : Course.Sound s.registry.course
  ports : portsSound s.registry.course s.registry.ports
  limits : s.registry.limits.Sound
  profiles : ∀ k : ScreenNo, s.screens[k].profile.Sound

theorem State.settings_sound_iff (s : State) : s.settings.Sound ↔ s.WorkingSound := by
  have profile : ∀ k : ScreenNo, s.settings.profiles[k] = s.screens[k].profile := fun k => by simp [State.settings]
  constructor
  · rintro ⟨hcourse, hports, hlimits, hprofiles⟩
    exact ⟨hcourse, hports, hlimits, fun k => profile k ▸ hprofiles k⟩
  · rintro ⟨hcourse, hports, hlimits, hprofiles⟩
    exact ⟨hcourse, hports, hlimits, fun k => (profile k).symm ▸ hprofiles k⟩

theorem Settings.defaults_sound : Settings.defaults.Sound := by
  refine ⟨⟨fun p q _ hp => ?_, fun x hx => ?_, fun p q x y _ hx _ => ?_, fun p x hx => ?_⟩, ⟨fun p q hq => ?_, fun q => ?_,
    fun p => ?_⟩, ?_, fun k => ?_⟩
  · simp [Settings.defaults] at hp
  · simp [Settings.defaults] at hx
  · simp [Settings.defaults] at hx
  · simp [Settings.defaults] at hx
  · simp [Settings.defaults] at hq
  · simp [Settings.defaults]
  · simp [Settings.defaults]
  · simp [Settings.defaults, Limits.Sound, Limits.defaults]
  · simp [Settings.defaults, Profile.Sound, Profile.defaults]

section
variable {s t : State}

theorem State.WorkingSound.of_eq (h : s.WorkingSound) (hc : t.registry.course = s.registry.course)
    (hp : t.registry.ports = s.registry.ports) (hl : t.registry.limits = s.registry.limits)
    (hk : Block.profiles.read t = Block.profiles.read s) : t.WorkingSound := by
  refine ⟨hc ▸ h.course, ?_, hl ▸ h.limits, fun k => ?_⟩
  · rw [hc, hp]; exact h.ports
  · have same : t.screens[k].profile = s.screens[k].profile := congrFun hk k
    rw [same]
    exact h.profiles k

theorem State.WorkingSound.of_frame {bs : List Block} (h : s.WorkingSound) (f : Frame bs s t)
    (hc : Block.course ∉ bs := by decide) (hp : Block.ports ∉ bs := by decide) (hl : Block.limits ∉ bs := by decide)
    (hk : Block.profiles ∉ bs := by decide) : t.WorkingSound :=
  h.of_eq (f.course hc) (f.ports hp) (f.limits hl) (f _ hk)

theorem setPoint_working (h : s.WorkingSound) (point : Byte) (distance : Half) (policy : Byte) (display : Bool) :
    (setPoint point distance policy display s).Keeps State.WorkingSound := by
  refine State.unlessResetting_keeps fun _ => ?_
  split
  · rename_i p d pol _ hd _
    refine Verdict.keeps_ite (fun _ => trivial) fun _ => Verdict.keeps_ite (fun hfits => ?_) fun _ => trivial
    refine ⟨Course.set_sound h.course hfits (halfIn_bounds hd).2, h.ports.of_course fun r q _ hq => ?_, h.limits,
      h.profiles⟩
    by_cases e : q = p
    · subst e
      exact (congrArg Option.isSome (Course.set_same s.registry.course q _)).trans rfl
    · exact (congrArg Option.isSome (Course.set_other s.registry.course _ e)).trans hq
  · trivial

theorem clearPoint_working (h : s.WorkingSound) (point : Byte) : (clearPoint point s).Keeps State.WorkingSound := by
  refine State.unlessResetting_keeps fun _ => ?_
  split
  · trivial
  rename_i p _
  refine Verdict.keeps_ite (fun _ => trivial) fun _ => Verdict.keeps_ite (fun _ => trivial) fun hfree => ?_
  rw [not_or, not_not] at hfree
  refine ⟨Course.clear_sound h.course hfree.1, h.ports.of_course fun r q hr hq => ?_, h.limits, h.profiles⟩
  have e : q ≠ p := by
    rintro rfl
    refine hfree.2 ?_
    simp only [State.pointInUse, Bool.or_eq_true, List.any_eq_true]
    exact .inl ((exists_mem_toList s.registry.ports fun x => (x.point == some q) = true).mpr ⟨r, beq_iff_eq.mpr hr⟩)
  show (s.registry.course.set p _)[q].isSome = true
  rw [Course.set_other _ _ e]
  exact hq

theorem setPort_working (h : s.WorkingSound) (port : Byte) (point : Option Byte) (allowance : Option Half) :
    (setPort port point allowance s).Keeps State.WorkingSound := by
  refine State.unlessResetting_keeps fun _ => ?_
  split
  · rename_i p q _ _
    split
    · trivial
    rename_i a ha
    refine Verdict.keeps_ite (fun _ => trivial) fun hconfigured => Verdict.keeps_ite (fun _ => trivial) fun hfull => ?_
    have f := (State.clearPassages_frame (s := s) p q.isNone).trans ((State.resetHeld_frame p).mono (by decide))
    have kept := h.of_frame f
    have course : ((s.clearPassages p q.isNone).resetHeld p).registry.course = s.registry.course := f.course
    have ports : ((s.clearPassages p q.isNone).resetHeld p).registry.ports = s.registry.ports := f.ports
    refine ⟨kept.course, kept.ports.assign (fun x hx => ?_) (fun x hx => ?_) ?_, kept.limits, kept.profiles⟩
    · subst hx
      rw [course]
      simpa [Option.isSome_iff_ne_none] using hconfigured
    · subst hx
      rw [ports]
      have room : ¬ Config.portsPerPoint ≤ s.otherFeeds p x := by simpa using hfull
      exact not_le.mp room
    · exact (optHalfIn_bounds ha ⟨Nat.zero_le _, h.ports.2.2 p⟩).2
  · trivial

theorem setLimits_working (h : s.WorkingSound) (a : LimitsArgs) : (setLimits a s).Keeps State.WorkingSound := by
  refine State.unlessResetting_keeps fun _ => ?_
  split
  · trivial
  rename_i m hm
  have written : (s.withRegistry { s.registry with limits := m }).WorkingSound :=
    ⟨h.course, h.ports, limitsOf_sound h.limits hm, h.profiles⟩
  have overdue : ∀ {u : State}, u.WorkingSound →
      ((List.finRange 12).foldl (fun x p => x.closeOverdue p) u).WorkingSound := fun hu =>
    hu.of_frame (State.foldl_frame (fun _ p => State.closeOverdue_frame p) _)
  have moved : ∀ {u : State}, u.WorkingSound →
      ((List.finRange 12).foldl (fun x p => x.moveStale p) u).WorkingSound := fun hu =>
    hu.of_frame (State.foldl_frame (fun _ p => State.moveStale_frame p) _)
  simp only [State.applyLimits, Verdict.ok, Verdict.Keeps]
  split_ifs
  · exact moved (overdue written)
  · exact moved written
  · exact overdue written
  · exact written

theorem setProfile_working (h : s.WorkingSound) (screen : Byte) (a : ProfileArgs) :
    (setProfile screen a s).Keeps State.WorkingSound := by
  unfold setProfile
  split
  · rename_i k prof _ hprof
    have registry : ((s.withScreen k (s.screens[k].emptied prof)).riseSequence k).registry = s.registry :=
      (State.riseSequence_display _ k).registry
    refine ⟨registry ▸ h.course, registry ▸ h.ports, registry ▸ h.limits, fun j => ?_⟩
    by_cases e : j = k
    · subst e
      rw [State.riseSequence_self, State.withScreen_same]
      exact profileOf_sound hprof
    · rw [State.riseSequence_other _ e, State.withScreen_other _ _ e]
      exact h.profiles j
  · trivial

end

/-! ## The settings of the state, its snapshot and its image -/

theorem State.settingsSound_iff (s : State) : s.SettingsSound ↔ s.WorkingSound ∧
    (∀ w, s.store.snapshot = some w → w.Sound) ∧ ∀ w, s.store.image = some w → w.Sound :=
  and_congr_left fun _ => s.settings_sound_iff

/-- A command that keeps the working settings and the store keeps the settings sound. -/
theorem State.SettingsSound.of_working {s t : State} (h : s.SettingsSound) (hw : t.WorkingSound)
    (hs : t.store = s.store) : t.SettingsSound := by
  rw [State.settingsSound_iff, hs]
  exact ⟨hw, h.2⟩

theorem State.SettingsSound.working {s : State} (h : s.SettingsSound) : s.WorkingSound := s.settings_sound_iff.mp h.1

theorem SettingsStore.loaded_sound {x : SettingsStore} (h : ∀ w, x.image = some w → w.Sound) : x.loaded.Sound := by
  unfold SettingsStore.loaded
  split
  · cases hi : x.image with
    | none => exact Settings.defaults_sound
    | some w => exact h w hi
  · exact Settings.defaults_sound

/-- A state whose settings are `w` and whose store holds sound settings is sound. -/
theorem State.settingsSound_of_loaded {s : State} {w : Settings} (hw : w.Sound) (hc : s.registry.course = w.course)
    (hp : s.registry.ports = w.ports) (hl : s.registry.limits = w.limits)
    (hk : ∀ k : ScreenNo, s.screens[k].profile = w.profiles[k]) (hsnapshot : s.store.snapshot = none)
    (himage : ∀ v, s.store.image = some v → v.Sound) : s.SettingsSound := by
  obtain ⟨hcourse, hports, hlimits, hprofiles⟩ := hw
  rw [State.settingsSound_iff]
  refine ⟨⟨hc ▸ hcourse, ?_, hl ▸ hlimits, fun k => hk k ▸ hprofiles k⟩, fun v hv => ?_, himage⟩
  · rw [hc, hp]; exact hports
  · rw [hsnapshot] at hv; exact nomatch hv

theorem exec_settingsSound (i : Instr) (s t : State) (hs : s.SettingsSound) (h : exec i s = .next t) :
    t.SettingsSound := by
  have hear : ∀ (l : Side) (u : State), u.SettingsSound → (u.hearControl l).SettingsSound := fun l u hu => hu
  have send : ∀ (u : State) (m : Sent), u.SettingsSound → (u.transmit m).SettingsSound := fun u m hu => hu
  have keeps : ∀ {u : State} {v : Verdict}, u.SettingsSound → v.Keeps State.WorkingSound →
      ∀ {bs : List Block}, v.Writes bs u → Block.store ∉ bs → v.Keeps State.SettingsSound := by
    intro u v hu hv bs hwrites hbs
    cases v with
    | refuse r => trivial
    | answer r d w => exact hu.of_working hv (Frame.store hwrites hbs)
    | stay w => exact hu.of_working hv (Frame.store hwrites hbs)
  cases hw : touches [.course, .ports, .limits, .profiles, .store] i with
  | false =>
    refine hs.of_working (hs.working.of_eq ?_ ?_ ?_ ?_) (read_of_not_touches hw h .store (by decide))
    · exact read_of_not_touches hw h .course (by decide)
    · exact read_of_not_touches hw h .ports (by decide)
    · exact read_of_not_touches hw h .limits (by decide)
    · exact read_of_not_touches hw h .profiles (by decide)
  | true =>
    cases i <;> first | exact Bool.noConfusion hw | skip
    case powerOn =>
      cases h
      exact State.settingsSound_of_loaded (SettingsStore.loaded_sound hs.2.2) rfl rfl rfl
        (fun k => by simp [Screen.reset]) rfl hs.2.2
    case stationReset cause =>
      have reset : ∀ rc, (s.stationReset rc).SettingsSound := fun rc =>
        State.settingsSound_of_loaded (w := s.settings) hs.1 rfl rfl rfl
          (fun k => by simp [State.stationReset, State.settings, Screen.reset]) rfl hs.2.2
      simp only [exec, execStationReset, Host.Outcome.next.injEq] at h
      subst h
      cases cause with
      | resetLine => exact reset _
      | restart =>
        simp only
        split
        · exact reset _
        · exact hs
    case setPoint l tag point distance policy display =>
      exact exec_keeps_of_handling (i := .setPoint l tag point distance policy display) rfl (hear l) send
        (fun u hu _ _ => keeps hu (setPoint_working hu.working _ _ _ _)
          (setPoint_frame point distance policy display) (by decide)) hs h
    case clearPoint l tag point =>
      exact exec_keeps_of_handling (i := .clearPoint l tag point) rfl (hear l) send
        (fun u hu _ _ => keeps hu (clearPoint_working hu.working _) (clearPoint_frame point) (by decide)) hs h
    case setPort l tag port point allowance =>
      exact exec_keeps_of_handling (i := .setPort l tag port point allowance) rfl (hear l) send
        (fun u hu _ _ => keeps hu (setPort_working hu.working _ _ _)
          (setPort_frame port point allowance) (by decide)) hs h
    case setLimits l tag a =>
      exact exec_keeps_of_handling (i := .setLimits l tag a) rfl (hear l) send
        (fun u hu _ _ => keeps hu (setLimits_working hu.working _) (setLimits_frame a) (by decide)) hs h
    case setProfile l tag screen a =>
      exact exec_keeps_of_handling (i := .setProfile l tag screen a) rfl (hear l) send
        (fun u hu _ _ => keeps hu (setProfile_working hu.working _ _) (setProfile_frame screen a) (by decide)) hs h
    case store l tag =>
      refine exec_keeps_of_handling (i := .store l tag) rfl (hear l) send (fun u hu _ _ => ?_) hs h
      refine Verdict.keeps_ite (fun _ => ⟨hu.1, fun w hw => ?_, hu.2.2⟩) fun _ => trivial
      cases hw
      exact hu.1
    case eraseCompletion =>
      simp only [exec, execEraseCompletion, Host.Outcome.next.injEq] at h
      subst h
      split
      · exact ⟨hs.1, hs.2.1, fun w hw => nomatch hw⟩
      · exact hs
    case writeCompletion =>
      simp only [exec, execWriteCompletion, Host.Outcome.next.injEq] at h
      subst h
      split
      · have written : (s.withStore
            { image := s.store.snapshot, valid := true, state := .idle, snapshot := none }).SettingsSound := ⟨hs.1, nofun, hs.2.1⟩
        exact written.of_working (written.working.of_frame (State.raise_frame _ _)) (State.raise_frame _ _).store
      · exact hs

/-! ## The store -/

theorem State.StoreSound.of_eq {s t : State} (h : s.StoreSound) (hs : t.store = s.store) : t.StoreSound := by
  unfold State.StoreSound
  rw [hs]
  exact h

/-- An idle store without a snapshot, whose valid mark stands over an image. -/
theorem State.storeSound_of_idle {s : State} (hidle : s.store.state = .idle) (hsnapshot : s.store.snapshot = none)
    (himage : s.store.valid = true → s.store.image.isSome = true) : s.StoreSound := by
  refine ⟨iff_of_false (by simp [hsnapshot]) (by simp [hidle]), fun h => absurd hidle h, fun h => ?_, himage⟩
  rw [hidle] at h
  exact nomatch h

theorem exec_storeSound (i : Instr) (s t : State) (hs : s.StoreSound) (h : exec i s = .next t) : t.StoreSound := by
  obtain ⟨hsnapshot, hvalid, hwriting, himage⟩ := id hs
  cases hw : touches [.store] i with
  | false => exact hs.of_eq (read_of_not_touches hw h .store (by decide))
  | true =>
    cases i <;> first | exact Bool.noConfusion hw | skip
    case powerOn => cases h; exact State.storeSound_of_idle rfl rfl himage
    case stationReset cause =>
      simp only [exec, execStationReset, Host.Outcome.next.injEq] at h
      subst h
      cases cause with
      | resetLine => exact State.storeSound_of_idle rfl rfl himage
      | restart =>
        simp only
        split
        · exact State.storeSound_of_idle rfl rfl himage
        · exact hs
    case store l tag =>
      refine exec_keeps_of_handling (P := State.StoreSound) (i := .store l tag) rfl (fun u hu => hu) (fun u m hu => hu)
        (fun u _ _ _ => ?_) hs h
      refine Verdict.keeps_ite (fun _ => ?_) fun _ => trivial
      exact ⟨iff_of_true rfl nofun, fun _ => rfl, nofun, nofun⟩
    case eraseCompletion =>
      simp only [exec, execEraseCompletion, Host.Outcome.next.injEq] at h
      subst h
      split
      · rename_i herasing
        have busy : s.store.state ≠ .idle := by rw [herasing]; nofun
        have unmarked := hvalid busy
        refine ⟨iff_of_true (hsnapshot.mpr busy) nofun, fun _ => unmarked, fun _ => rfl, fun hmarked => ?_⟩
        exact absurd (unmarked.symm.trans hmarked) nofun
      · exact hs
    case writeCompletion =>
      simp only [exec, execWriteCompletion, Host.Outcome.next.injEq] at h
      subst h
      split
      · rename_i hstate
        have busy : s.store.state ≠ .idle := by rw [hstate]; nofun
        refine State.StoreSound.of_eq ?_ (State.raise_frame _ _).store
        exact State.storeSound_of_idle (s := s.withStore _) rfl rfl fun _ => hsnapshot.mpr busy
      · exact hs

/-- Settles O55: SET POINT, CLEAR POINT, SET PORT, SET LIMITS and SET PROFILE accept settings in their ranges alone, and
a snapshot is taken of the working settings. -/
theorem stepKeepsSettingsAndStore : Obligations.StepKeepsSettingsAndStore := by
  unfold Obligations.StepKeepsSettingsAndStore
  exact ⟨fun _ _ hs h => step_keeps (P := State.SettingsSound) (fun _ _ hs => hs) exec_settingsSound hs h,
    fun _ _ hs h => step_keeps (P := State.StoreSound) (fun _ _ hs => hs) exec_storeSound hs h⟩

end Sys2Proof.Machine

/-! The Race Reset (5.6): the commands that it bars, the order in which commands are judged, and the proof that every step
keeps the state of a Race Reset. -/

namespace Sys2Proof.Machine

set_option Elab.async false

/-! ## The commands that a Race Reset bars (R84) -/

theorem State.resetting_iff (s : State) : s.resetting = true ↔ s.registry.state = .resetting := beq_iff_eq

theorem State.unlessResetting_of_resetting {s : State} (h : s.resetting = true) (v : Verdict) :
    s.unlessResetting v = .refuse .busy := if_pos h

/-- A barred command is refused with BUSY while the Registry is RESETTING. -/
theorem ownHandling_of_resetting {i : Instr} {s : State} (hi : barredByReset i = true) (h : s.resetting = true) :
    ownHandling i s = .refuse .busy := by
  have at_ : ∀ bib point k, s.correctAt bib point k = .refuse .busy := fun bib point k => by
    unfold State.correctAt
    split <;> exact State.unlessResetting_of_resetting h _
  cases i <;> first | (cases hi; done) | exact State.unlessResetting_of_resetting h _ | exact at_ _ _ _

/-- Settles O9: a command of the list that is taken comes to its own handling, which the Race Reset refuses. -/
theorem resettingRefusesListedCommands : Obligations.ResettingRefusesListedCommands := by
  unfold Obligations.ResettingRefusesListedCommands
  intro c s l tag hsender hbarred hready htoken hreset
  have heard : (s.hearControl l).resetting = true := (State.resetting_iff s).mpr hreset
  rw [exec_of_ready hsender hready htoken, ownHandling_of_resetting hbarred heard]
  rfl

/-! ## The order of the judgement (R161, R162, R185) -/

section
variable {l : Side} {tag : Byte} {needs : Bool} {handle : State → Verdict} {s : State}

theorem takeCommand_of_startUp (h : s.startUp = true) : takeCommand l tag needs handle s = .next s := by
  simp [takeCommand, h]

theorem takeCommand_of_inProgress (hstart : s.startUp = false) (h : (s.controlLink l).inProgress.isSome = true) :
    takeCommand l tag needs handle s = .next ((s.hearControl l).respond l tag .busy .nothing) := by
  have busy : ((s.hearControl l).controlLink l).inProgress.isSome = true := by
    rw [State.hearControl_controlLink]
    exact h
  simp [takeCommand, hstart, State.judgeCommand, busy]

theorem takeCommand_of_not_held (hready : s.ready l) (h : s.control.token ≠ .held l) :
    takeCommand l tag true handle s = .next ((s.hearControl l).respond l tag .notInCharge .nothing) := by
  have idle : ((s.hearControl l).controlLink l).inProgress.isSome = false := by
    rw [State.hearControl_controlLink, hready.2]
    rfl
  have holds : (s.hearControl l).holds l = false := by
    have same : (s.hearControl l).control.token = s.control.token := (s.hearControl_frame l).token
    rw [State.holds, same]
    exact beq_eq_false_iff_ne.mpr h
  simp [takeCommand, hready.1, State.judgeCommand, idle, holds]

end

/-- Settles O10: the branches of `takeCommand` before a command's own handling, and the two frames of a screen that ask
for start-up themselves. -/
theorem commandsAreJudgedInOrder : Obligations.CommandsAreJudgedInOrder := by
  unfold Obligations.CommandsAreJudgedInOrder
  refine ⟨fun c s hsender hstart => ?_, fun s k last wait hstart => ⟨?_, ?_⟩, fun c s l tag hsender hstart hbusy => ?_,
    fun c s l tag hsender hopen hready htoken => ?_⟩
  · obtain ⟨⟨l, tag⟩, h⟩ := Option.isSome_iff_exists.mp hsender
    rw [exec_eq_takeCommand h, takeCommand_of_startUp hstart]
  · simp [exec, execScreenHello, hstart]
  · simp [exec, execFrameRequest, hstart]
  · rw [exec_eq_takeCommand hsender, takeCommand_of_inProgress hstart hbusy]
  · rw [exec_eq_takeCommand hsender, hopen]
    exact takeCommand_of_not_held hready htoken

/-! ## The command in progress and the requester (R83, R85) -/

/-- A command in progress is the requester's, and stands only in a Race Reset after start-up; a READY registry has no
record to clear. -/
def State.RequestSound (s : State) : Prop :=
  (∀ l, (s.controlLink l).inProgress.isSome = true ↔ s.registry.requester = some l) ∧
  (s.registry.requester.isSome = true → s.resetting = true ∧ s.startUp = false) ∧
  (s.resetting = false → s.registry.clearing = [])

/-- What stands in the part while the Registry is RESETTING (R16, R65, R136). -/
def State.Emptied (s : State) : Prop :=
  s.clock.state = .stopped ∧ s.clock.value = 0 ∧ s.clock.locked = false ∧ (∀ w : Wave, s.clock.guns[w] = none) ∧
    s.passage.held = none ∧ (∀ p : Port, s.passage.lists[p] = []) ∧ s.park = []

theorem State.resetSound_iff (s : State) :
    s.ResetSound ↔ s.RequestSound ∧ (s.resetting = true → s.Emptied) :=
  ⟨fun ⟨h1, h2, h3, h4⟩ => ⟨⟨h1, h2, h3⟩, h4⟩, fun ⟨⟨h1, h2, h3⟩, h4⟩ => ⟨h1, h2, h3, h4⟩⟩

section
variable {s t : State}

theorem State.resetting_of_state (h : t.registry.state = s.registry.state) : t.resetting = s.resetting := by
  unfold State.resetting
  rw [h]

theorem State.RequestSound.of_eq (h : s.RequestSound) (hp : Block.progress.read t = Block.progress.read s)
    (hr : Block.race.read t = Block.race.read s) (hu : t.startUp = s.startUp) : t.RequestSound := by
  have progress : ∀ l, (t.controlLink l).inProgress = (s.controlLink l).inProgress := congrFun hp
  have state : t.registry.state = s.registry.state := congrArg Prod.fst hr
  have requester : t.registry.requester = s.registry.requester := congrArg (fun x => x.2.1) hr
  have clearing : t.registry.clearing = s.registry.clearing := congrArg (fun x => x.2.2) hr
  unfold State.RequestSound
  rw [State.resetting_of_state state, requester, clearing, hu]
  simp only [progress]
  exact h

theorem State.RequestSound.of_frame {bs : List Block} (h : s.RequestSound) (f : Frame bs s t)
    (hp : Block.progress ∉ bs := by decide) (hr : Block.race ∉ bs := by decide)
    (hu : Block.startUp ∉ bs := by decide) : t.RequestSound := h.of_eq (f _ hp) (f _ hr) (f.startUp hu)

/-- Without a requester no command is in progress. -/
theorem State.requestSound_of_idle (hp : ∀ l, (s.controlLink l).inProgress = none) (hr : s.registry.requester = none)
    (hc : s.resetting = false → s.registry.clearing = []) : s.RequestSound := by
  refine ⟨fun l => ?_, fun h => ?_, hc⟩
  · rw [hp, hr]; exact ⟨nofun, nofun⟩
  · rw [hr] at h; exact nomatch h

theorem State.RequestSound.idle (h : s.RequestSound) (hr : s.registry.requester = none) (l : Side) :
    (s.controlLink l).inProgress = none := by
  cases hp : (s.controlLink l).inProgress with
  | none => rfl
  | some c =>
    have asked := (h.1 l).mp (by rw [hp]; rfl)
    rw [hr] at asked
    exact nomatch asked

/-- A requester is asked for only in a Race Reset after start-up. -/
theorem State.RequestSound.requester_none (h : s.RequestSound) (hs : s.resetting = false ∨ s.startUp = true) :
    s.registry.requester = none := by
  cases hr : s.registry.requester with
  | none => rfl
  | some l =>
    obtain ⟨hreset, hstart⟩ := h.2.1 (by rw [hr]; rfl)
    rcases hs with hs | hs
    · exact nomatch hs.symm.trans hreset
    · exact nomatch hs.symm.trans hstart

theorem Registry.finishReset_ready (x : Registry) : x.finishReset.state = .ready := by
  unfold Registry.finishReset
  split
  · rfl
  · rename_i h
    cases hx : x.state with
    | ready => rfl
    | resetting => exact absurd hx h

theorem Registry.finishReset_requester (x : Registry) : x.finishReset.requester = none := by
  unfold Registry.finishReset
  split <;> rfl

theorem Registry.clear_all_clearing (x : Registry) : (x.clear x.clearing).clearing = [] := by
  simp [Registry.clear]

theorem State.endStartUp_requestSound (h : s.RequestSound) (hstart : s.startUp = true) : s.endStartUp.RequestSound := by
  refine State.requestSound_of_idle (fun l => h.idle (h.requester_none (.inr hstart)) l)
    s.registry.finishReset_requester fun _ => ?_
  show s.registry.finishReset.clearing = []
  unfold Registry.finishReset
  split
  · exact s.registry.clear_all_clearing
  · rename_i hstate
    exact h.2.2 (by simpa [State.resetting] using hstate)

/-- The link of the requester is answered and is then idle (R84). -/
theorem State.answerReset_idle (h : s.RequestSound) (l : Side) : (s.answerReset.controlLink l).inProgress = none := by
  unfold State.answerReset
  split
  · exact h.idle ‹_› l
  · rename_i k hk
    split
    · rename_i hidle
      have busy := (h.1 k).mpr hk
      rw [hidle] at busy
      exact nomatch busy
    · rename_i c _
      show (((s.withLink k _).respond k c.tag .ok .nothing).controlLink l).inProgress = none
      have responded : ((s.withLink k { s.controlLink k with inProgress := none }).respond k c.tag .ok .nothing).controlLink l
          = (s.withLink k { s.controlLink k with inProgress := none }).controlLink l := rfl
      rw [responded]
      by_cases e : l = k
      · subst e
        rw [State.controlLink_withLink]
      · rw [State.controlLink_withLink_other _ _ e]
        cases hp : (s.controlLink l).inProgress with
        | none => rfl
        | some d =>
          have asked := (h.1 l).mp (by rw [hp]; rfl)
          rw [hk] at asked
          cases asked
          exact absurd rfl e

theorem beginRaceReset_requestSound (h : s.RequestSound) (hstart : s.startUp = false) (l : Side) (tag : Byte) :
    (beginRaceReset l tag s).Keeps State.RequestSound := by
  refine State.unlessResetting_keeps fun hready => ?_
  have f : Frame [.intake, .clock, .align, .passage, .park, .screens, .watchLog] s
      ((List.finRange 12).foldl (fun x p => x.resetIntake p) s).resetBlocks :=
    ((State.foldl_frame (fun _ p => State.resetIntake_frame p) _).mono (by decide)).trans
      (State.resetBlocks_frame.mono (by decide))
  generalize ((List.finRange 12).foldl (fun x p => x.resetIntake p) s).resetBlocks = t at f
  have idle : ∀ k, (t.controlLink k).inProgress = none := fun k =>
    (f.inProgress k).trans (h.idle (h.requester_none (.inl hready)) k)
  refine ⟨fun k => ?_, fun _ => ⟨rfl, (f.startUp).trans hstart⟩, nofun⟩
  dsimp only
  by_cases e : k = l
  · subst e
    rw [State.controlLink_withLink]
    exact iff_of_true rfl rfl
  · rw [State.controlLink_withLink_other _ _ e]
    refine iff_of_false (fun hk => ?_) fun hk => ?_
    · have none_ : ((t.withRegistry { t.registry with
          state := .resetting, requester := some l, clearing := t.registry.runners.map fun r => r.bib }).controlLink
          k).inProgress = none := idle k
      rw [none_] at hk
      exact nomatch hk
    · exact e (Option.some.inj hk).symm

end

theorem exec_requestSound (i : Instr) (s t : State) (hs : s.RequestSound) (h : exec i s = .next t) :
    t.RequestSound := by
  cases hw : touches [.progress, .race, .startUp] i with
  | false =>
    exact hs.of_eq (read_of_not_touches hw h .progress (by decide)) (read_of_not_touches hw h .race (by decide))
      (read_of_not_touches hw h .startUp (by decide))
  | true =>
    cases i <;> first | exact Bool.noConfusion hw | skip
    case powerOn =>
      cases h
      exact State.requestSound_of_idle (fun l => by cases l <;> rfl) rfl fun _ => rfl
    case stationReset cause =>
      have reset : ∀ rc, (s.stationReset rc).RequestSound := fun rc =>
        State.requestSound_of_idle (fun l => by cases l <;> rfl) rfl hs.2.2
      simp only [exec, execStationReset, Host.Outcome.next.injEq] at h
      subst h
      cases cause with
      | resetLine => exact reset _
      | restart =>
        simp only
        split
        · exact reset _
        · exact hs
    case startUpEnd =>
      rcases exec_startUpEnd_cases h with rfl | ⟨hstart, u, hu, rfl⟩
      · exact hs
      · exact ((State.endStartUp_requestSound hs hstart).of_frame hu).of_frame u.takeReads_frame
    case raceReset l tag =>
      exact exec_keeps_of_handling (i := .raceReset l tag) rfl (fun u hu => hu.of_frame (u.hearControl_frame l))
        (fun u m hu => hu.of_frame (u.transmit_frame m)) (fun u hu hstart _ => beginRaceReset_requestSound hu hstart l tag)
        hs h
    case raceResetCompletion =>
      simp only [exec, execRaceResetCompletion, Host.Outcome.next.injEq] at h
      subst h
      split
      · rename_i hcond
        rw [Bool.and_eq_true, List.isEmpty_iff] at hcond
        refine State.RequestSound.of_frame ?_ (State.takeReads_frame _)
        refine State.requestSound_of_idle (fun l => State.answerReset_idle hs l) rfl fun _ => ?_
        exact (State.answerReset_frame.clearing).trans hcond.2
      · exact hs
    case runnerRecordClearing bib =>
      simp only [exec, execRunnerRecordClearing, Host.Outcome.next.injEq] at h
      subst h
      split
      · rename_i hcond
        rw [Bool.and_eq_true] at hcond
        have cleared : ∀ x : Registry, x.requester = s.registry.requester → x.state = s.registry.state →
            (s.withRegistry x).RequestSound := fun x hr hstate => by
          have resetting : (s.withRegistry x).resetting = s.resetting := State.resetting_of_state hstate
          refine ⟨fun l => ?_, fun hx => ?_, fun hx => ?_⟩
          · show _ ↔ x.requester = some l
            rw [hr]
            exact hs.1 l
          · rw [resetting]
            have asked : x.requester.isSome = true := hx
            exact hs.2.1 (hr ▸ asked)
          · rw [resetting, hcond.1] at hx
            exact nomatch hx
        split
        · exact cleared _ rfl rfl
        · exact cleared _ rfl rfl
      · exact hs

/-! ## What is empty during a Race Reset -/

section
variable {s t : State}

theorem State.Emptied.of_eq (h : s.Emptied) (hc : t.clock = s.clock) (hu : t.passage = s.passage)
    (hp : t.park = s.park) : t.Emptied := by
  unfold State.Emptied
  rw [hc, hu, hp]
  exact h

theorem State.Emptied.of_frame {bs : List Block} (h : s.Emptied) (f : Frame bs s t) (hc : Block.clock ∉ bs := by decide)
    (hu : Block.passage ∉ bs := by decide) (hp : Block.park ∉ bs := by decide) : t.Emptied :=
  h.of_eq (f.clock hc) (f.passage hu) (f.park hp)

/-- Nothing is taken while the Registry is RESETTING (R51). -/
theorem State.takeReads_of_resetting (h : s.resetting = true) : s.takeReads = s := by
  have may : s.mayTake = false := by simp [State.mayTake, h]
  unfold State.takeReads
  cases s.waitingReads with
  | zero => rfl
  | succ n => simp [State.takeUpTo, may]

/-- A read that arrives while the Registry is RESETTING waits in its list. -/
theorem State.classifyRead_of_resetting (h : s.resetting = true) (p : Port) (seq : Byte) (x : IntakeRead) :
    Frame [.intake] s (s.classifyRead p seq x) := by
  have counted : ∀ n m c, Frame [.intake] s (((s.countTimes .readLost p n).withIntake p m).count c p) := fun n m c =>
    ((((s.countTimes_marks _ _ _).frame ((keptByReads_tallies _).countTimes _ _ _ rfl)).mono (by decide)).trans
      (State.withIntake_frame _ p m)).trans ((State.count_frame _ c p).mono (by decide))
  have checked : ∀ n m c, Frame [.intake] s ((((s.countTimes .readLost p n).withIntake p m).count c p).creditCheck p) :=
    fun n m c => (counted n m c).trans (State.creditCheck_frame _ p)
  have taken : ∀ {t : State}, Frame [.intake] s t → Frame [.intake] s t.takeReads := fun {t} f => by
    rw [State.takeReads_of_resetting ((State.resetting_of_state f.state).trans h)]
    exact f
  simp only [State.classifyRead]
  split_ifs
  · exact ((s.count_frame _ _).trans (State.raise_frame _ _)).mono (by decide)
  · simp only [State.acceptRead]
    split
    · exact checked _ _ _
    · refine taken ?_
      split
      · exact counted _ _ _
      · exact checked _ _ _
  · exact (s.count_frame _ _).mono (by decide)

theorem not_mem_writes {b : Block} {i : Instr} (h : touches [b] i = false) : b ∉ writes i := fun hb => by
  simp only [touches, List.any_eq_false, List.contains_iff_mem, List.mem_singleton] at h
  exact h b hb rfl

/-- A property of RESETTING states is kept by a barred command that leaves the Registry's state: it is refused. -/
theorem exec_emptied_of_barred {i : Instr} {l : Side} {tag : Byte} (hsender : sender i = some (l, tag))
    (hbarred : barredByReset i = true) (hrace : touches [.race] i = false) (hs : s.resetting = true → s.Emptied)
    (h : exec i s = .next t) : t.resetting = true → t.Emptied := by
  refine exec_keeps_of_handling (P := fun u => u.resetting = true → u.Emptied) hsender
    (fun u hu hr => (hu hr).of_eq rfl rfl rfl) (fun u m hu hr => (hu hr).of_eq rfl rfl rfl)
    (fun u hu _ _ => ?_) hs h
  by_cases hr : u.resetting = true
  · rw [ownHandling_of_resetting hbarred hr]
    trivial
  · have f := ownHandling_frame i u
    have vacuous : ∀ {v : State}, Frame (writes i) u v → v.resetting = true → v.Emptied := fun f hv =>
      absurd ((State.resetting_of_state (f.state (not_mem_writes hrace))).symm.trans hv) hr
    cases hv : ownHandling i u with
    | refuse r => trivial
    | answer r d v => rw [hv] at f; exact vacuous f
    | stay v => rw [hv] at f; exact vacuous f

theorem State.passageOf_of_empty {p : Port} (h : s.passage.lists[p] = []) (chip : Word32) : s.passageOf p chip = none := by
  unfold State.passageOf
  rw [h]
  rfl

end

theorem exec_emptied (i : Instr) (s t : State) (hs : s.resetting = true → s.Emptied) (h : exec i s = .next t) :
    t.resetting = true → t.Emptied := by
  cases hw : touches [.clock, .passage, .park, .race] i with
  | false =>
    intro hr
    have state : t.registry.state = s.registry.state :=
      congrArg Prod.fst (read_of_not_touches hw h .race (by decide))
    exact (hs ((State.resetting_of_state state).symm.trans hr)).of_eq (read_of_not_touches hw h .clock (by decide))
      (read_of_not_touches hw h .passage (by decide)) (read_of_not_touches hw h .park (by decide))
  | true =>
    have before : touches [.race] i = false → t.resetting = true → s.resetting = true := fun hrace hr =>
      (State.resetting_of_state ((exec_frame h).state (not_mem_writes hrace))).symm.trans hr
    cases i <;> first | exact Bool.noConfusion hw | skip
    case powerOn => cases h; exact nofun
    case stationReset cause =>
      have reset : ∀ rc, (s.stationReset rc).resetting = true → (s.stationReset rc).Emptied := fun rc hr => by
        obtain ⟨hstate, hvalue, hlocked, hguns, -⟩ := hs hr
        exact ⟨hstate, hvalue, hlocked, hguns, rfl, fun p => by simp [State.stationReset, PassageUnit.reset], rfl⟩
      simp only [exec, execStationReset, Host.Outcome.next.injEq] at h
      subst h
      cases cause with
      | resetLine => exact reset _
      | restart =>
        simp only
        split
        · exact reset _
        · exact hs
    case startUpEnd =>
      rcases exec_startUpEnd_cases h with rfl | ⟨_, u, hu, rfl⟩
      · exact hs
      · intro hr
        have state : u.takeReads.registry.state = .ready :=
          (((u.takeReads_frame).state).trans hu.state).trans s.registry.finishReset_ready
        exact nomatch state.symm.trans ((State.resetting_iff _).mp hr)
    case countedMillisecond =>
      intro hr
      have empty := hs (before rfl hr)
      simp only [exec, execCountedMillisecond, Host.Outcome.next.injEq] at h
      subst h
      split
      · rename_i hcond
        rw [Bool.and_eq_true] at hcond
        have runs : s.clock.state = .running := beq_iff_eq.mp hcond.1
        exact nomatch runs.symm.trans empty.1
      · exact empty
    case refLoss =>
      intro hr
      have empty := hs (before rfl hr)
      simp only [exec, execRefLoss, Host.Outcome.next.injEq] at h
      subst h
      split
      · exact State.Emptied.of_frame (s := s.withClock { s.clock with ref := .lost }) empty (State.raise_frame _ _)
      · exact empty
    case refReturn =>
      intro hr
      have empty := hs (before rfl hr)
      simp only [exec, execRefReturn, Host.Outcome.next.injEq] at h
      subst h
      split
      · exact empty
      · exact empty
    case read p seq chip dtime level =>
      intro hr
      have reset := before rfl hr
      have empty := hs reset
      simp only [exec, execRead, Host.Outcome.next.injEq] at h
      subst h
      split
      · have heard := s.hearMat_frame p
        have still := (State.resetting_of_state heard.state).trans reset
        exact (empty.of_frame heard).of_frame (State.classifyRead_of_resetting still p _ _)
      · exact empty.of_frame (s.count_frame _ _)
    case readCompletion =>
      intro hr
      have empty := hs (before rfl hr)
      obtain ⟨-, -, -, -, hfree, -, -⟩ := id empty
      simp only [exec, execReadCompletion, hfree, Host.Outcome.next.injEq] at h
      subst h
      exact empty
    case closeDeadline p chip =>
      intro hr
      have empty := hs (before rfl hr)
      obtain ⟨-, -, -, -, -, hlists, -⟩ := id empty
      simp only [exec, execCloseDeadline, State.passageOf_of_empty (hlists p), Host.Outcome.next.injEq] at h
      subst h
      exact empty
    case raceReset l tag =>
      refine exec_keeps_of_handling (P := fun u => u.resetting = true → u.Emptied) (i := .raceReset l tag) rfl
        (fun u hu hr => (hu hr).of_eq rfl rfl rfl) (fun u m hu hr => (hu hr).of_eq rfl rfl rfl)
        (fun u _ _ _ => State.unlessResetting_keeps fun _ => ?_) hs h
      generalize (List.finRange 12).foldl (fun x p => x.resetIntake p) u = v
      have emptied : v.resetBlocks.Emptied :=
        ⟨rfl, rfl, rfl, fun w => by simp [State.resetBlocks, RaceClock.raceReset], rfl,
          fun p => by simp [State.resetBlocks, PassageUnit.raceReset], rfl⟩
      exact fun _ => emptied
    case raceResetCompletion =>
      intro hr
      simp only [exec, execRaceResetCompletion, Host.Outcome.next.injEq] at h
      subst h
      split at hr
      · rename_i hcond
        have state : ((s.answerReset.withRegistry s.answerReset.registry.completed).takeReads).registry.state = .ready :=
          (State.takeReads_frame _).state
        exact nomatch state.symm.trans ((State.resetting_iff _).mp hr)
      · rename_i hcond
        rw [if_neg hcond]
        exact hs hr
    case runnerRecordClearing bib =>
      intro hr
      simp only [exec, execRunnerRecordClearing, Host.Outcome.next.injEq] at h
      subst h
      split at hr
      · rename_i hcond
        rw [if_pos hcond]
        rw [Bool.and_eq_true] at hcond
        exact hs hcond.1
      · rename_i hcond
        rw [if_neg hcond]
        exact hs hr
    case startClock l tag preset => exact exec_emptied_of_barred rfl rfl rfl hs h
    case stopClock l tag => exact exec_emptied_of_barred rfl rfl rfl hs h
    case gun l tag wave time => exact exec_emptied_of_barred rfl rfl rfl hs h
    case clearPoint l tag point => exact exec_emptied_of_barred rfl rfl rfl hs h
    case setPort l tag port point allowance => exact exec_emptied_of_barred rfl rfl rfl hs h
    case setLimits l tag a => exact exec_emptied_of_barred rfl rfl rfl hs h
    case register l tag bib wave chips name => exact exec_emptied_of_barred rfl rfl rfl hs h
    case bind l tag chip bib => exact exec_emptied_of_barred rfl rfl rfl hs h
    case discard l tag chip => exact exec_emptied_of_barred rfl rfl rfl hs h

theorem exec_resetSound (i : Instr) (s t : State) (hs : s.ResetSound) (h : exec i s = .next t) : t.ResetSound := by
  rw [State.resetSound_iff] at hs ⊢
  exact ⟨exec_requestSound i s t hs.1 h, exec_emptied i s t hs.2 h⟩

/-- Settles O59: the commands that could fill an emptied block are barred while the Registry is RESETTING, and no read is
taken then. -/
theorem stepKeepsRaceReset : Obligations.StepKeepsRaceReset := by
  unfold Obligations.StepKeepsRaceReset
  exact fun s t hs h => step_keeps (P := State.ResetSound) (fun _ _ hs => hs) exec_resetSound hs h

end Sys2Proof.Machine

/-! The runner table, the chip map and the Park List (chapters 5, 6 and 8): what each operation leaves of the three
together, and the proof that every step keeps them sound. -/

namespace Sys2Proof.Machine

set_option Elab.async false

/-! ## Crossing records (R88, R89) -/

/-- A place that a crossing holds is one of a place counter. -/
def Crossing.Placed (c : Crossing) : Prop := ∀ n, c.place = some n → 1 ≤ n ∧ n ≤ Config.maxPlace

theorem nextPlace_bounds (n : Nat) : 1 ≤ nextPlace n ∧ nextPlace n ≤ Config.maxPlace := by
  unfold nextPlace
  split
  · exact ⟨Nat.succ_pos _, ‹_›⟩
  · exact ⟨by decide, le_rfl⟩

section
variable {s : State}

theorem State.takePlace_snd (s : State) (p : Point) (c : Crossing) :
    (s.takePlace p c).2 = { c with place := some (c.place.getD (nextPlace s.registry.counters[p])) } := by
  rw [State.takePlace_eq]

theorem State.takePlace_placed (p : Point) {c : Crossing} (h : c.Placed) : (s.takePlace p c).2.Placed := by
  rw [State.takePlace_snd]
  intro n hn
  cases hc : c.place with
  | none => rw [hc] at hn; cases hn; exact nextPlace_bounds _
  | some m => rw [hc] at hn; cases hn; exact h m hc

/-- A crossing that takes a place and has no suspect reason is sound when its source fits its flags. -/
theorem State.takePlace_sound (p : Point) {c : Crossing} (hplace : c.Placed)
    (hsource : c.amended = true ↔ c.source = .control)
    (hflags : c.amended = true → c.estimated = false ∧ c.confirmed = false ∧ c.suspect = none) :
    (s.takePlace p c).2.Sound := by
  have placed := s.takePlace_placed p hplace
  rw [State.takePlace_snd] at placed ⊢
  exact ⟨hsource, hflags, nofun, placed⟩

/-- A crossing from a mat port is sound once it is judged: with a reason, or with a place (R96). -/
theorem State.judge_sound (r : Runner) (p : Point) {c : Crossing} (hplace : c.Placed) (hplain : c.amended = false)
    (hsource : c.source ≠ .control) : (s.judge r p c).2.Sound := by
  have source : c.amended = true ↔ c.source = .control := iff_of_false (by simp [hplain]) hsource
  have flags : ∀ {P : Prop}, c.amended = true → P := fun h => absurd h (by simp [hplain])
  obtain ⟨hwhy, hnone⟩ := s.judge_eq r p c
  cases hreason : checkReason s r p c.time with
  | some why => rw [hwhy why hreason]; exact ⟨source, flags, fun _ => rfl, hplace⟩
  | none => rw [hnone hreason]; exact s.takePlace_sound p hplace source flags

end

/-! ## Runner records (R75) -/

section
variable {course : Course} {r : Runner}

/-- The soundness of a record does not read its status or its wave. -/
theorem Runner.Sound.congr {x : Runner} (h : r.Sound course) (hbib : x.bib = r.bib) (hchips : x.chips = r.chips)
    (hname : x.name = r.name) (hcrossings : x.crossings = r.crossings) : x.Sound course := by
  unfold Runner.Sound
  rw [hbib, hchips, hname, hcrossings]
  exact h

theorem Runner.derived_kept (course : Course) (r : Runner) : (r.derived course).bib = r.bib ∧
    (r.derived course).chips = r.chips ∧ (r.derived course).name = r.name ∧ (r.derived course).crossings = r.crossings := by
  unfold Runner.derived
  split <;> exact ⟨rfl, rfl, rfl, rfl⟩

theorem Runner.Sound.derived (h : r.Sound course) (course' : Course) : (r.derived course').Sound course := by
  obtain ⟨hbib, hchips, hname, hcrossings⟩ := r.derived_kept course'
  exact h.congr hbib hchips hname hcrossings

/-- A sound crossing at a configured point, or none, may be written into a record. -/
theorem Runner.Sound.withCrossing (h : r.Sound course) (p : Point) {c : Option Crossing}
    (hc : ∀ x, c = some x → x.Sound ∧ course[p].isSome = true) : (r.withCrossing p c).Sound course := by
  obtain ⟨hbib, hlen, hzero, hname, hcrossings⟩ := h
  refine ⟨hbib, hlen, hzero, hname, fun q x hx => ?_⟩
  have hx' : (r.crossings.set p c)[q] = some x := hx
  by_cases e : q = p
  · subst e
    exact hc x (by simpa using hx')
  · rw [show (r.crossings.set p c)[q] = r.crossings[q] from Vector.getElem_set_ne _ _ fun eq => e (Fin.ext eq.symm)] at hx'
    exact hcrossings q x hx'

/-- A record stays sound in a course that keeps the points of its crossings. -/
theorem Runner.Sound.of_course {course' : Course} (h : r.Sound course)
    (hcourse : ∀ p : Point, r.crossings[p].isSome = true → course[p].isSome = true → course'[p].isSome = true) :
    r.Sound course' := by
  obtain ⟨hbib, hlen, hzero, hname, hcrossings⟩ := h
  exact ⟨hbib, hlen, hzero, hname, fun p c hc =>
    ⟨(hcrossings p c hc).1, hcourse p (by rw [hc]; rfl) (hcrossings p c hc).2⟩⟩

theorem Runner.Sound.cleared (h : r.Sound course) : r.cleared.Sound course :=
  ⟨h.1, h.2.1, h.2.2.1, h.2.2.2.1, fun p c hc => by simp [Runner.cleared] at hc⟩

end

/-! ## The table, the map and the list together -/

/-- The runner table and the chip map are sound, and so is the Park List but for chips of `mapped`, whose entries are
about to be replayed (R78, R131). -/
structure State.TableSound (mapped : List Word32) (s : State) : Prop where
  runners : s.RunnersSound
  chips : s.ChipsSound
  length : s.park.length ≤ Config.parkListSize
  entries : (s.park.map fun e => e.chip).Nodup
  crossings : ∀ e ∈ s.park, ∃ p : Point, e.crossings[p].isSome = true
  unknown : ∀ e ∈ s.park, s.bibOf e.chip = none ∨ e.chip ∈ mapped

theorem State.tableSound_iff (s : State) :
    State.TableSound [] s ↔ s.RunnersSound ∧ s.ChipsSound ∧ s.ParkSound :=
  ⟨fun ⟨h1, h2, h3, h4, h5, h6⟩ => ⟨h1, h2, h3, h4, h5, fun e he => (h6 e he).resolve_right List.not_mem_nil⟩,
    fun ⟨h1, h2, h3, h4, h5, h6⟩ => ⟨h1, h2, h3, h4, h5, fun e he => .inl (h6 e he)⟩⟩

theorem State.bibOf_eq_none_iff (s : State) (chip : Word32) :
    s.bibOf chip = none ↔ chip ∉ s.registry.chipMap.map fun x => x.1 := by
  unfold State.bibOf
  rw [List.lookup_eq_none_iff]
  simp only [List.mem_map, not_exists, not_and, bne_iff_ne, ne_eq, eq_comm (a := chip)]

/-- Two records with one bib are one record. -/
theorem runner_eq_of_bib {l : List Runner} (h : (l.map fun r => r.bib).Nodup) {r x : Runner} (hr : r ∈ l) (hx : x ∈ l)
    (hbib : r.bib = x.bib) : r = x := List.inj_on_of_nodup_map h hr hx hbib

section
variable {C : List Word32} {s t : State}

theorem State.runner_mem {bib : Half} {r : Runner} (h : s.runner bib = some r) : r ∈ s.registry.runners :=
  List.mem_of_find?_eq_some h

namespace State.TableSound

theorem of_eq (h : s.TableSound C) (hr : t.registry = s.registry) (hp : t.park = s.park) : t.TableSound C := by
  obtain ⟨h1, h2, h3, h4, h5, h6⟩ := h
  refine ⟨?_, ?_, hp ▸ h3, hp ▸ h4, hp ▸ h5, ?_⟩
  · unfold State.RunnersSound; rw [hr]; exact h1
  · unfold State.ChipsSound; rw [hr]; exact h2
  · unfold State.bibOf; rw [hr, hp]; exact h6

/-- The Registry differs in what the three do not read. -/
theorem of_registry (h : s.TableSound C) (hc : t.registry.course = s.registry.course)
    (hr : t.registry.runners = s.registry.runners) (hn : t.registry.counters = s.registry.counters)
    (hm : t.registry.chipMap = s.registry.chipMap) (hp : t.park = s.park) : t.TableSound C := by
  obtain ⟨h1, h2, h3, h4, h5, h6⟩ := h
  refine ⟨?_, ?_, hp ▸ h3, hp ▸ h4, hp ▸ h5, ?_⟩
  · unfold State.RunnersSound Registry.bibs; rw [hc, hr, hn]; exact h1
  · unfold State.ChipsSound; rw [hr, hm]; exact h2
  · unfold State.bibOf; rw [hm, hp]; exact h6

theorem of_frame {bs : List Block} (h : s.TableSound C) (f : Frame bs s t) (hc : Block.course ∉ bs := by decide)
    (hr : Block.runners ∉ bs := by decide) (hm : Block.chipMap ∉ bs := by decide) (hp : Block.park ∉ bs := by decide) :
    t.TableSound C := h.of_registry (f.course hc) (f.runners hr) (f.counters hr) (f.chipMap hm) (f.park hp)

/-- Records that keep their bibs and chips, and stay sound, keep the three sound. -/
theorem map (h : s.TableSound C) (f : Runner → Runner) (hr : t.registry.runners = s.registry.runners.map f)
    (hf : ∀ r ∈ s.registry.runners, (f r).bib = r.bib ∧ (f r).chips = r.chips ∧ (f r).Sound t.registry.course)
    (hn : ∀ p : Point, t.registry.counters[p] ≤ Config.maxPlace) (hm : t.registry.chipMap = s.registry.chipMap)
    (hp : t.park = s.park) : t.TableSound C := by
  obtain ⟨⟨hsize, hbibs, -, -⟩, ⟨hkeys, hmap⟩, h3, h4, h5, h6⟩ := h
  refine ⟨⟨?_, ?_, fun x hx => ?_, hn⟩, ⟨hm ▸ hkeys, fun chip bib => ?_⟩, hp ▸ h3, hp ▸ h4, hp ▸ h5, ?_⟩
  · rw [hr, List.length_map]; exact hsize
  · have same : t.registry.bibs = s.registry.bibs := by
      unfold Registry.bibs
      rw [hr, List.map_map]
      exact List.map_congr_left fun r hr => (hf r hr).1
    rw [same]
    exact hbibs
  · rw [hr] at hx
    obtain ⟨r, hmem, rfl⟩ := List.mem_map.mp hx
    exact (hf r hmem).2.2
  · rw [hm, hmap chip bib, hr]
    constructor
    · rintro ⟨r, hmem, hbib, hchip⟩
      obtain ⟨eb, ec, -⟩ := hf r hmem
      exact ⟨f r, List.mem_map_of_mem hmem, eb.trans hbib, ec ▸ hchip⟩
    · rintro ⟨x, hx, hbib, hchip⟩
      obtain ⟨r, hmem, rfl⟩ := List.mem_map.mp hx
      obtain ⟨eb, ec, -⟩ := hf r hmem
      exact ⟨r, hmem, eb ▸ hbib, ec ▸ hchip⟩
  · unfold State.bibOf
    rw [hm, hp]
    exact h6

/-- A record takes the place of the one with its bib. -/
theorem putRunner (h : s.TableSound C) {r x : Runner} (hr : r ∈ s.registry.runners) (hbib : x.bib = r.bib)
    (hchips : x.chips = r.chips) (hx : x.Sound s.registry.course) : (s.putRunner x).TableSound C := by
  obtain ⟨-, hbibs, hsound, hcounters⟩ := h.runners
  refine h.map (fun y => if y.bib == x.bib then x else y) rfl (fun y hy => ?_) hcounters rfl rfl
  split
  · rename_i heq
    have same : y = r := runner_eq_of_bib hbibs hy hr ((beq_iff_eq.mp heq).trans hbib)
    subst same
    exact ⟨hbib, hchips, hx⟩
  · exact ⟨rfl, rfl, hsound y hy⟩

/-- A place counter that counts on stays within its bound. -/
theorem takePlace (h : s.TableSound C) (p : Point) (c : Crossing) : (s.takePlace p c).1.TableSound C := by
  obtain ⟨-, -, hsound, hcounters⟩ := h.runners
  rw [State.takePlace_eq]
  refine h.map id (List.map_id _).symm (fun r hr => ⟨rfl, rfl, hsound r hr⟩) (fun q => ?_) rfl rfl
  dsimp only
  split
  · exact hcounters q
  · by_cases e : q = p
    · subst e
      simpa using (nextPlace_bounds _).2
    · have other : (s.registry.counters.set p (nextPlace s.registry.counters[p]))[q] = s.registry.counters[q] :=
        Vector.getElem_set_ne _ _ fun eq => e (Fin.ext eq.symm)
      rw [other]
      exact hcounters q

theorem judge (h : s.TableSound C) (r : Runner) (p : Point) (c : Crossing) : (s.judge r p c).1.TableSound C := by
  unfold State.judge
  split
  · exact h
  · exact h.takePlace p _

end State.TableSound

theorem State.judge_registry (s : State) (r : Runner) (p : Point) (c : Crossing) :
    (s.judge r p c).1.registry.runners = s.registry.runners ∧
      (s.judge r p c).1.registry.course = s.registry.course := by
  unfold State.judge
  split
  · exact ⟨rfl, rfl⟩
  · rw [State.takePlace_eq]; exact ⟨rfl, rfl⟩

theorem State.takePlace_registry (s : State) (p : Point) (c : Crossing) :
    (s.takePlace p c).1.registry.runners = s.registry.runners ∧
      (s.takePlace p c).1.registry.course = s.registry.course := by
  rw [State.takePlace_eq]
  exact ⟨rfl, rfl⟩

namespace State.TableSound

/-- A sound crossing at a configured point, or none, is written into a record of the table (R98). -/
theorem writeCrossing (h : s.TableSound C) {r : Runner} (hr : r ∈ s.registry.runners) (p : Point) {c : Option Crossing}
    (hc : ∀ x, c = some x → x.Sound ∧ s.registry.course[p].isSome = true) : (s.writeCrossing r p c).TableSound C := by
  obtain ⟨-, -, hsound, -⟩ := h.runners
  obtain ⟨hbib, hchips, -, -⟩ := (r.withCrossing p c).derived_kept s.registry.course
  exact h.putRunner hr hbib hchips (((hsound r hr).withCrossing p hc).derived _)

theorem count (h : s.TableSound C) (c : TallyClass) (q : Nat) : (s.count c q).TableSound C := h.of_frame (s.count_frame c q)

theorem raiseIf (h : s.TableSound C) (b : Bool) (c : Condition) : (s.raiseIf b c).TableSound C :=
  h.of_frame (s.raiseIf_frame b c)

theorem countAll (h : s.TableSound C) (cs : List TallyClass) (q : Nat) : (s.countAll cs q).TableSound C :=
  h.of_eq (s.countAll_marks cs q).registry (s.countAll_marks cs q).park

theorem logCrossing (h : s.TableSound C) (r : Runner) (p : Point) (c : Crossing) :
    (s.logCrossing r p c).TableSound C := by
  unfold State.logCrossing
  split
  · exact h.of_eq (s.appendWatch_display _).2.1 (s.appendWatch_display _).2.2.1
  · exact h

theorem handOffIf (h : s.TableSound C) (b : Bool) (r : Runner) (p : Point) (c : Crossing) :
    (s.handOffIf b r p c).TableSound C := by
  unfold State.handOffIf
  split
  · exact h.of_eq (s.handOff_display r p c).registry (s.handOff_display r p c).park
  · exact h

/-! ## One crossing (R90 to R94) -/

/-- A judged crossing of a record of the table at a configured point is written with the marks that follow. -/
theorem writeJudged (h : s.TableSound C) {r : Runner} (hr : r ∈ s.registry.runners) {p : Point}
    (hp : s.registry.course[p].isSome = true) {c : Crossing} (hc : (s.judge r p c).2.Sound) :
    ((s.judge r p c).1.writeCrossing r p (some (s.judge r p c).2)).TableSound C := by
  obtain ⟨hruns, hcourse⟩ := s.judge_registry r p c
  refine (h.judge r p c).writeCrossing (hruns ▸ hr) p fun x hx => ?_
  cases hx
  exact ⟨hc, hcourse ▸ hp⟩

theorem recordNew (h : s.TableSound C) {r : Runner} (hr : r ∈ s.registry.runners) {i : Incoming}
    (hp : s.registry.course[i.point].isSome = true) (b : Bool) : (s.recordNew r i b).TableSound C := by
  have sound : (s.judge r i.point i.fresh).2.Sound := s.judge_sound r i.point nofun rfl nofun
  obtain ⟨hruns, hcourse⟩ := s.judge_registry r i.point i.fresh
  have judged := h.judge r i.point i.fresh
  simp only [State.recordNew]
  generalize hj : s.judge r i.point i.fresh = j at sound hruns hcourse judged
  obtain ⟨t, c⟩ := j
  refine ((TableSound.putRunner ((judged.count (newCount c) i.point).raiseIf c.suspect.isSome .suspect) (r := r) ?_ ?_ ?_
    ?_).logCrossing _ _ _).handOffIf _ _ _ _
  · have same : ((t.count (newCount c) i.point).raiseIf c.suspect.isSome .suspect).registry = t.registry :=
      ((State.raiseIf_marks _ _ _).registry).trans (State.count_marks _ _ _).registry
    rw [same]
    exact hruns ▸ hr
  · exact ((r.withCrossing i.point (some c)).derived_kept s.registry.course).1
  · exact ((r.withCrossing i.point (some c)).derived_kept s.registry.course).2.1
  · have same : ((t.count (newCount c) i.point).raiseIf c.suspect.isSome .suspect).registry = t.registry :=
      ((State.raiseIf_marks _ _ _).registry).trans (State.count_marks _ _ _).registry
    rw [same, hcourse]
    obtain ⟨-, -, hsound, -⟩ := h.runners
    refine ((hsound r hr).withCrossing i.point fun x hx => ?_).derived _
    cases hx
    exact ⟨sound, hp⟩

/-- The crossing of a record that stands at a point is sound. -/
theorem crossing_sound (h : s.TableSound C) {r : Runner} (hr : r ∈ s.registry.runners) {p : Point} {c : Crossing}
    (hc : r.crossings[p] = some c) : c.Sound := by
  obtain ⟨-, -, hsound, -⟩ := h.runners
  obtain ⟨-, -, -, -, hcrossings⟩ := hsound r hr
  exact (hcrossings p c hc).1

theorem replaceCrossing (h : s.TableSound C) {r : Runner} (hr : r ∈ s.registry.runners) {i : Incoming}
    (hp : s.registry.course[i.point].isSome = true) {old : Crossing} (hold : r.crossings[i.point] = some old) :
    (s.replaceCrossing r i old).TableSound C := by
  have placed : old.Placed := (h.crossing_sound hr hold).2.2.2
  exact ((h.writeJudged hr hp (s.judge_sound r i.point (c := { old with
    time := i.time, source := .port i.source, estimated := i.estimated, confirmed := false, amended := false })
    placed rfl nofun)).countAll _ _).raiseIf _ _

theorem confirmCrossing (h : s.TableSound C) {r : Runner} (hr : r ∈ s.registry.runners) {i : Incoming}
    (hp : s.registry.course[i.point].isSome = true) {old : Crossing} (hold : r.crossings[i.point] = some old)
    (hplain : old.amended = false) : (s.confirmCrossing r i old).TableSound C := by
  obtain ⟨hsource, -, hreason, placed⟩ := h.crossing_sound hr hold
  simp only [State.confirmCrossing]
  split
  · exact ((h.writeJudged hr hp (s.judge_sound r i.point (c := { old with
      time := i.time, source := .port i.source, confirmed := true }) placed hplain nofun)).countAll _ _).raiseIf _ _
  · refine (h.writeCrossing hr i.point fun x hx => ?_).count _ _
    cases hx
    refine ⟨⟨hsource, fun ha => ?_, hreason, placed⟩, hp⟩
    exact absurd hplain (by rw [show old.amended = true from ha]; nofun)

theorem applyCrossing (h : s.TableSound C) {r : Runner} (hr : r ∈ s.registry.runners) {i : Incoming}
    (hp : s.registry.course[i.point].isSome = true) (b : Bool) : (s.applyCrossing r i b).TableSound C := by
  simp only [State.applyCrossing]
  split
  · exact h.recordNew hr hp b
  · rename_i old hold
    split_ifs
    · exact h.count _ _
    · exact h.replaceCrossing hr hp hold
    · rename_i hlow hhigh _
      refine h.confirmCrossing hr hp hold ?_
      cases ha : old.amended with
      | false => rfl
      | true => cases he : i.estimated <;> simp [rankOf, ha, he] at hlow hhigh
    · exact h.count _ _

/-! ## The Park List (R127 to R129) -/

/-- The Park List changes, the Registry does not. -/
theorem withPark (h : s.TableSound C) {l : List ParkEntry} (hlen : l.length ≤ Config.parkListSize)
    (hchips : (l.map fun e => e.chip).Nodup) (hsome : ∀ e ∈ l, ∃ p : Point, e.crossings[p].isSome = true)
    (hunknown : ∀ e ∈ l, s.bibOf e.chip = none ∨ e.chip ∈ C) : (s.withPark l).TableSound C :=
  ⟨h.runners, h.chips, hlen, hchips, hsome, hunknown⟩

/-- Entries may leave the Park List. -/
theorem withPark_sublist (h : s.TableSound C) {l : List ParkEntry} (hl : l.Sublist s.park) :
    (s.withPark l).TableSound C :=
  h.withPark (hl.length_le.trans h.length) (h.entries.sublist (hl.map _)) (fun e he => h.crossings e (hl.subset he))
    fun e he => h.unknown e (hl.subset he)

/-- An entry of a new unknown chip joins a list with room. -/
theorem withPark_concat (h : s.TableSound C) {l : List ParkEntry} (hl : l.Sublist s.park)
    (hlen : l.length < Config.parkListSize) {chip : Word32} (hnew : ∀ e ∈ s.park, e.chip ≠ chip)
    (hunknown : s.bibOf chip = none) (p : Point) (now : Nat) (x : ParkedCrossing) :
    (s.withPark (l ++ [ParkEntry.make chip p now x])).TableSound C := by
  refine h.withPark ?_ ?_ (fun e he => ?_) fun e he => ?_
  · rw [List.length_append, List.length_singleton]; exact hlen
  · rw [List.map_append, List.nodup_append]
    refine ⟨h.entries.sublist (hl.map _), List.nodup_singleton _, fun a ha b hb e => ?_⟩
    obtain ⟨y, hy, rfl⟩ := List.mem_map.mp ha
    rw [List.map_singleton, List.mem_singleton] at hb
    exact hnew y (hl.subset hy) (e.trans hb)
  · rcases List.mem_append.mp he with he | he
    · exact h.crossings e (hl.subset he)
    · rw [List.mem_singleton.mp he]
      exact ⟨p, by simp [ParkEntry.make]⟩
  · rcases List.mem_append.mp he with he | he
    · exact h.unknown e (hl.subset he)
    · rw [List.mem_singleton.mp he]
      exact .inl hunknown

theorem parkCrossing (h : s.TableSound C) {chip : Word32} (hunknown : s.bibOf chip = none) (p : Point)
    (x : ParkedCrossing) : (s.parkCrossing chip p x).TableSound C := by
  by_cases hparked : ∃ e ∈ s.park, e.chip = chip
  · rw [State.parkCrossing_of_parked hparked]
    have chip_eq : ∀ e : ParkEntry, (if e.chip = chip then e.merge p s.now x else e).chip = e.chip := fun e => by
      split <;> rfl
    refine h.withPark ?_ ?_ (fun e he => ?_) fun e he => ?_
    · rw [List.length_map]; exact h.length
    · rw [List.map_map]
      have same : (fun e : ParkEntry => e.chip) ∘ (fun e => if e.chip = chip then e.merge p s.now x else e) =
          fun e => e.chip := funext chip_eq
      rw [same]
      exact h.entries
    · obtain ⟨y, hy, rfl⟩ := List.mem_map.mp he
      split
      · exact ⟨p, by simp [ParkEntry.merge]⟩
      · exact h.crossings y hy
    · obtain ⟨y, hy, rfl⟩ := List.mem_map.mp he
      rw [chip_eq]
      exact h.unknown y hy
  · have hnew : ∀ e ∈ s.park, e.chip ≠ chip := fun e he heq => hparked ⟨e, he, heq⟩
    by_cases hroom : s.park.length < Config.parkListSize
    · rw [State.parkCrossing_of_room hnew hroom]
      have parked := h.withPark_concat (List.Sublist.refl _) hroom hnew hunknown p s.now x
      exact TableSound.of_frame (parked.count _ _) (State.raise_frame _ _)
    · have hfull : Config.parkListSize ≤ s.park.length := not_lt.mp hroom
      rw [State.parkCrossing_of_full hnew hfull]
      have shorter : (displaceOldest s.park).length < Config.parkListSize := by
        have hpos : 0 < s.park.length := lt_of_lt_of_le (by decide) hfull
        obtain ⟨t, ht⟩ : ∃ t, oldestUpdate s.park = some t := by
          rw [oldestUpdate_eq_min?]
          refine Option.isSome_iff_exists.mp ?_
          simpa [Option.isSome_iff_ne_none, List.min?_eq_none_iff, ← List.length_pos_iff_ne_nil] using hpos
        obtain ⟨⟨e, he, heq⟩, -⟩ := oldestUpdate_eq_some_iff.mp ht
        rw [displaceOldest, List.length_eraseP_of_mem he (by rw [ht, heq]; exact beq_self_eq_true _)]
        have := h.length
        omega
      have parked := h.withPark_concat List.eraseP_sublist shorter hnew hunknown p s.now x
      exact TableSound.of_frame (TableSound.of_frame ((parked.count _ _).count _ _) (State.raise_frame _ _))
        (State.raise_frame _ _)

/-! ## Crossings taken and replayed -/

theorem takeCrossing (h : s.TableSound C) (i : Incoming) (b : Bool) : (s.takeCrossing i b).TableSound C := by
  unfold State.takeCrossing
  split
  · exact h.parkCrossing ‹_› _ _
  · split
    · exact h
    · split
      · exact h.applyCrossing (State.runner_mem ‹_›) ‹_› b
      · exact h.count _ _

end State.TableSound

end

theorem keptByReads_tableSound (C : List Word32) : KeptByReads (State.TableSound C) where
  count _ c q h := h.count c q
  raise s c h := h.of_frame (s.raise_frame c)
  crossing _ i b h := h.takeCrossing i b
  intake _ _ _ h := h.of_eq rfl rfl
  align _ _ _ h := h.of_eq rfl rfl
  passage _ _ h := h.of_eq rfl rfl
  transmit _ _ h := h.of_eq rfl rfl

/-- The entry of a chip that was mapped leaves the Park List and is replayed (R78, R131). -/
theorem State.TableSound.unparkAndReplay {C : List Word32} {s : State} {chip : Word32}
    (h : s.TableSound (chip :: C)) : (s.unparkAndReplay (s.parked chip)).TableSound C := by
  have kept : ∀ l : List ParkEntry, l.Sublist s.park → (∀ e ∈ l, e.chip ≠ chip) → (s.withPark l).TableSound C :=
    fun l hl hne => ⟨h.runners, h.chips, hl.length_le.trans h.length, h.entries.sublist (hl.map _),
      fun e he => h.crossings e (hl.subset he), fun e he => (h.unknown e (hl.subset he)).imp_right fun hm =>
        (List.mem_cons.mp hm).resolve_left (hne e he)⟩
  cases hp : s.parked chip with
  | none =>
    have absent : ∀ e ∈ s.park, e.chip ≠ chip := fun e he heq =>
      (List.find?_eq_none.mp hp e he) (beq_iff_eq.mpr heq)
    exact (kept s.park (List.Sublist.refl _) absent).of_eq rfl rfl
  | some e =>
    have hchip : e.chip = chip := beq_iff_eq.mp (List.find?_some (p := fun e : ParkEntry => e.chip == chip) hp)
    refine (keptByReads_tableSound C).replay e (kept _ List.filter_sublist fun x hx heq => ?_)
    have differs := (List.mem_filter.mp hx).2
    rw [heq, hchip] at differs
    simp at differs

end Sys2Proof.Machine

/-! The commands that write the runner table, the chip map or the Park List, and the proof that every step keeps the three
sound together (R75, R76, R126). -/

namespace Sys2Proof.Machine

set_option Elab.async false

/-! ## Sorted insertion (R75, R76) -/

theorem insertRunner_perm (r : Runner) (l : List Runner) : (insertRunner r l).Perm (r :: l) := by
  induction l with
  | nil => exact List.Perm.refl _
  | cons x rest ih =>
    unfold insertRunner
    split
    · exact (ih.cons x).trans (List.Perm.swap r x rest)
    · exact List.Perm.refl _

theorem insertChip_perm (chip : Word32) (bib : Half) (l : List (Word32 × Half)) :
    (insertChip chip bib l).Perm ((chip, bib) :: l) := by
  induction l with
  | nil => exact List.Perm.refl _
  | cons x rest ih =>
    unfold insertChip
    split
    · exact (ih.cons x).trans (List.Perm.swap (chip, bib) x rest)
    · exact List.Perm.refl _

/-- The chip map with several chips of one bib. -/
def insertChips (chips : List Word32) (bib : Half) (l : List (Word32 × Half)) : List (Word32 × Half) :=
  chips.foldl (fun m chip => insertChip chip bib m) l

theorem insertChips_perm (chips : List Word32) (bib : Half) (l : List (Word32 × Half)) :
    (insertChips chips bib l).Perm (chips.map (fun chip => (chip, bib)) ++ l) := by
  unfold insertChips
  induction chips generalizing l with
  | nil => exact List.Perm.refl _
  | cons chip rest ih =>
    exact (ih _).trans (((insertChip_perm chip bib l).append_left _).trans List.perm_middle)

theorem State.mapChips_eq (chips : List Word32) (bib : Half) (s : State) :
    chips.foldl (fun t chip => t.mapChip chip bib) s =
      s.withRegistry { s.registry with chipMap := insertChips chips bib s.registry.chipMap } := by
  induction chips generalizing s with
  | nil => rfl
  | cons chip rest ih => rw [List.foldl_cons, ih]; rfl

/-! ## New chips in the map -/

/-- What the Park List and the map are once the chips `chips`, which the map lacked, lead to `bib`. -/
theorem State.TableSound.of_mapped {s t : State} (h : State.TableSound [] s) {chips : List Word32} {bib : Half}
    (hnodup : chips.Nodup) (hnew : ∀ c ∈ chips, s.bibOf c = none) (hrunners : t.RunnersSound)
    (hmap : t.registry.chipMap.Perm (chips.map (fun c => (c, bib)) ++ s.registry.chipMap))
    (hrecords : ∀ chip b, (∃ r ∈ t.registry.runners, r.bib = b ∧ chip ∈ r.chips) ↔
      (chip ∈ chips ∧ b = bib) ∨ ∃ r ∈ s.registry.runners, r.bib = b ∧ chip ∈ r.chips)
    (hpark : t.park = s.park) : t.TableSound chips := by
  obtain ⟨hkeys, hmem⟩ := h.chips
  have keys : (t.registry.chipMap.map fun x => x.1).Perm (chips ++ s.registry.chipMap.map fun x => x.1) := by
    have := hmap.map fun x : Word32 × Half => x.1
    simpa [List.map_append, List.map_map, Function.comp_def] using this
  refine ⟨hrunners, ⟨?_, fun chip b => ?_⟩, hpark ▸ h.length, hpark ▸ h.entries, hpark ▸ h.crossings, fun e he => ?_⟩
  · rw [keys.nodup_iff, List.nodup_append]
    refine ⟨hnodup, hkeys, fun a ha b hb e => ?_⟩
    subst e
    exact (s.bibOf_eq_none_iff a).mp (hnew a ha) hb
  · rw [hrecords, ← hmem, hmap.mem_iff, List.mem_append, List.mem_map]
    simp only [Prod.mk.injEq]
    constructor
    · rintro (⟨c, hc, rfl, rfl⟩ | hold)
      · exact .inl ⟨hc, rfl⟩
      · exact .inr hold
    · rintro (⟨hc, rfl⟩ | hold)
      · exact .inl ⟨chip, hc, rfl, rfl⟩
      · exact .inr hold
  · rw [hpark] at he
    by_cases hm : e.chip ∈ chips
    · exact .inr hm
    · refine .inl ((t.bibOf_eq_none_iff _).mpr fun hk => ?_)
      have old := (h.unknown e he).resolve_right List.not_mem_nil
      rcases List.mem_append.mp (keys.mem_iff.mp hk) with hk | hk
      · exact hm hk
      · exact (s.bibOf_eq_none_iff _).mp old hk

/-- Every mapped chip that was parked is replayed in turn. -/
theorem State.TableSound.replayAll {chips : List Word32} {s : State} (h : s.TableSound chips) :
    State.TableSound [] (chips.foldl (fun t chip => t.unparkAndReplay (t.parked chip)) s) := by
  induction chips generalizing s with
  | nil => exact h
  | cons chip rest ih => exact ih h.unparkAndReplay

theorem State.chipMapped_iff (s : State) (chip : Word32) : s.chipMapped chip = false ↔ s.bibOf chip = none := by
  simp [State.chipMapped]

section
variable {s : State}

/-! ## REGISTER and BIND (R77, R78, R130, R131) -/

theorem Runner.make_sound (course : Course) {bib : Half} (wave : Wave) {chips : List Word32} {name : Option Name}
    (h : registerInRange bib chips name = true) : (Runner.make bib wave chips name).Sound course := by
  simp only [registerInRange, Bool.and_eq_true, bne_iff_ne, decide_eq_true_eq, Bool.not_eq_true',
    List.contains_eq_mem, decide_eq_false_iff_not] at h
  obtain ⟨⟨⟨hbib, hlen⟩, hzero⟩, hname⟩ := h
  exact ⟨hbib, hlen, hzero, hname, fun p c hc => by simp [Runner.make] at hc⟩

theorem registerRunner_tableSound (h : State.TableSound [] s) (bib : Half) (wave : Byte) (chips : List Word32)
    (name : Option Name) : (registerRunner bib wave chips name s).Keeps (State.TableSound []) := by
  refine State.unlessResetting_keeps fun _ => ?_
  split
  · trivial
  rename_i w _
  refine Verdict.keeps_ite (fun _ => trivial) fun hrange => Verdict.keeps_ite (fun _ => trivial) fun hdistinct =>
    Verdict.keeps_ite (fun _ => trivial) fun hfree => Verdict.keeps_ite (fun _ => trivial) fun hroom =>
      Verdict.keeps_ite (fun _ => trivial) fun hmapped => ?_
  have inRange : registerInRange bib chips name = true := by simpa using hrange
  have nodup : chips.Nodup := (allDistinct_iff chips).mp (by simpa using hdistinct)
  have free : ∀ r ∈ s.registry.runners, r.bib ≠ bib :=
    (s.runner_eq_none bib).mp (Option.not_isSome_iff_eq_none.mp hfree)
  have new : ∀ c ∈ chips, s.bibOf c = none := fun c hc => by
    refine (s.chipMapped_iff c).mp (Bool.eq_false_iff.mpr fun hm => hmapped ?_)
    exact List.any_eq_true.mpr ⟨c, hc, hm⟩
  have perm := insertRunner_perm (Runner.make bib w chips name) s.registry.runners
  obtain ⟨-, hbibs, hsound, hcounters⟩ := h.runners
  refine State.TableSound.replayAll ?_
  rw [State.mapChips_eq]
  refine h.of_mapped (bib := bib) nodup new ⟨?_, ?_, fun r hr => ?_, hcounters⟩ (insertChips_perm chips bib _)
    (fun chip b => ?_) rfl
  · show (insertRunner _ _).length ≤ _
    rw [perm.length_eq, List.length_cons]
    exact not_le.mp hroom
  · refine ((perm.map fun r : Runner => r.bib).nodup_iff).mpr ?_
    rw [List.map_cons, List.nodup_cons]
    refine ⟨fun hm => ?_, hbibs⟩
    obtain ⟨r, hr, hbib⟩ := List.mem_map.mp hm
    exact free r hr hbib
  · rcases List.mem_cons.mp (perm.mem_iff.mp hr) with rfl | hr
    · exact Runner.make_sound _ w inRange
    · exact hsound r hr
  · show (∃ r ∈ insertRunner _ _, _) ↔ _
    simp only [perm.mem_iff, List.mem_cons, exists_eq_or_imp]
    exact or_congr ⟨fun ⟨hb, hc⟩ => ⟨hc, hb.symm⟩, fun ⟨hc, hb⟩ => ⟨hb.symm, hc⟩⟩ Iff.rfl

theorem bindChip_tableSound (h : State.TableSound [] s) (chip : Word32) (bib : Half) :
    (bindChip chip bib s).Keeps (State.TableSound []) := by
  refine State.unlessResetting_keeps fun _ => Verdict.keeps_ite (fun _ => trivial) fun hzero => ?_
  rw [not_or] at hzero
  split
  · trivial
  rename_i r hr
  refine Verdict.keeps_ite (fun _ => trivial) fun hroom => Verdict.keeps_ite (fun _ => trivial) fun hmapped => ?_
  have new : s.bibOf chip = none := (s.chipMapped_iff chip).mp (Bool.eq_false_iff.mpr hmapped)
  have hmem := State.runner_mem hr
  obtain ⟨hsize, hbibs, hsound, hcounters⟩ := h.runners
  have sound : ({ r with chips := r.chips ++ [chip] } : Runner).Sound s.registry.course := by
    obtain ⟨hbib, -, hnone, hname, hcrossings⟩ := hsound r hmem
    refine ⟨hbib, ?_, fun hz => ?_, hname, hcrossings⟩
    · rw [List.length_append, List.length_singleton]; exact not_le.mp hroom
    · rcases List.mem_append.mp hz with hz | hz
      · exact hnone hz
      · exact hzero.1 (List.mem_singleton.mp hz).symm
  have bib_eq : ∀ y : Runner, (if y.bib == r.bib then { r with chips := r.chips ++ [chip] } else y).bib = y.bib :=
    fun y => by
      split
      · exact (beq_iff_eq.mp ‹_›).symm
      · rfl
  refine State.TableSound.unparkAndReplay ?_
  refine h.of_mapped (chips := [chip]) (bib := r.bib) (List.nodup_singleton _)
    (fun c hc => List.mem_singleton.mp hc ▸ new) ⟨?_, ?_, fun x hx => ?_, hcounters⟩ (insertChip_perm chip r.bib _)
    (fun c b => ?_) rfl
  · show (List.map _ _).length ≤ _
    rw [List.length_map]; exact hsize
  · show ((s.registry.runners.map _).map _).Nodup
    rw [List.map_map]
    exact (List.map_congr_left fun y _ => bib_eq y).symm ▸ hbibs
  · obtain ⟨y, hy, rfl⟩ := List.mem_map.mp hx
    split
    · exact sound
    · exact hsound y hy
  · show (∃ x ∈ s.registry.runners.map _, _) ↔ _
    constructor
    · rintro ⟨x, hx, hb, hc⟩
      obtain ⟨y, hy, rfl⟩ := List.mem_map.mp hx
      rw [bib_eq] at hb
      split at hc
      · rename_i heq
        have same : y = r := runner_eq_of_bib hbibs hy hmem (beq_iff_eq.mp heq)
        rcases List.mem_append.mp hc with hc | hc
        · exact .inr ⟨r, hmem, same ▸ hb, hc⟩
        · exact .inl ⟨hc, same ▸ hb.symm⟩
      · exact .inr ⟨y, hy, hb, hc⟩
    · rintro (⟨hc, rfl⟩ | ⟨y, hy, rfl, hc⟩)
      · refine ⟨_, List.mem_map_of_mem hmem, bib_eq r, ?_⟩
        rw [if_pos (beq_self_eq_true _)]
        exact List.mem_append_right _ hc
      · refine ⟨_, List.mem_map_of_mem hy, bib_eq y, ?_⟩
        split
        · rename_i heq
          have same : y = r := runner_eq_of_bib hbibs hy hmem (beq_iff_eq.mp heq)
          exact List.mem_append_left _ (same ▸ hc)
        · exact hc

/-! ## REMOVE, SET NAME and the corrections -/

theorem removeRunner_tableSound (h : State.TableSound [] s) (bib : Half) :
    (removeRunner bib s).Keeps (State.TableSound []) := by
  refine State.unlessResetting_keeps fun _ => Verdict.keeps_ite (fun _ => trivial) fun _ => ?_
  split
  · trivial
  rename_i r hr
  refine Verdict.keeps_ite (fun _ => trivial) fun _ => ?_
  have hmem := State.runner_mem hr
  have hbib := State.runner_bib hr
  obtain ⟨hsize, hbibs, hsound, hcounters⟩ := h.runners
  obtain ⟨hkeys, hmap⟩ := h.chips
  have fewer : (s.registry.chipMap.filter fun x => !r.chips.contains x.1).Sublist s.registry.chipMap := List.filter_sublist
  have rows : (s.registry.runners.filter fun x => x.bib != bib).Sublist s.registry.runners := List.filter_sublist
  refine ⟨⟨rows.length_le.trans hsize, hbibs.sublist (rows.map _), fun x hx => hsound x (rows.subset hx), hcounters⟩,
    ⟨hkeys.sublist (fewer.map _), fun chip b => ?_⟩, h.length, h.entries, h.crossings, fun e he => .inl ?_⟩
  · show (chip, b) ∈ s.registry.chipMap.filter _ ↔ ∃ x ∈ s.registry.runners.filter _, _
    simp only [List.mem_filter, hmap chip b, bne_iff_ne, Bool.not_eq_true', List.contains_eq_mem,
      decide_eq_false_iff_not]
    constructor
    · rintro ⟨⟨x, hx, hb, hc⟩, hnot⟩
      refine ⟨x, ⟨hx, fun e => hnot ?_⟩, hb, hc⟩
      rw [← runner_eq_of_bib hbibs hx hmem (e.trans hbib.symm)]
      exact hc
    · rintro ⟨x, ⟨hx, hne⟩, hb, hc⟩
      refine ⟨⟨x, hx, hb, hc⟩, fun hown => hne ?_⟩
      have own := (hmap chip bib).mpr ⟨r, hmem, hbib, hown⟩
      have other := (hmap chip b).mpr ⟨x, hx, hb, hc⟩
      have same := List.inj_on_of_nodup_map hkeys other own rfl
      rw [hb]
      exact congrArg Prod.snd same
  · have old := (h.unknown e he).resolve_right List.not_mem_nil
    rw [State.bibOf_eq_none_iff] at old ⊢
    exact fun hk => old ((fewer.map _).subset hk)

theorem setName_tableSound (h : State.TableSound [] s) (bib : Half) (name : Option Name) :
    (setName bib name s).Keeps (State.TableSound []) := by
  refine State.unlessResetting_keeps fun _ => Verdict.keeps_ite (fun _ => trivial) fun hrange => ?_
  rw [not_or] at hrange
  split
  · trivial
  rename_i r hr
  obtain ⟨-, -, hsound, -⟩ := h.runners
  obtain ⟨hbib, hlen, hzero, -, hcrossings⟩ := hsound r (State.runner_mem hr)
  exact h.putRunner (State.runner_mem hr) rfl rfl ⟨hbib, hlen, hzero, by simpa using hrange.2, hcrossings⟩

/-- A record changes its status alone. -/
theorem State.TableSound.withStatus (h : State.TableSound [] s) {bib : Half} {r : Runner} (hr : s.runner bib = some r)
    (status : RunnerStatus) : State.TableSound [] (s.putRunner { r with status }) := by
  obtain ⟨-, -, hsound, -⟩ := h.runners
  exact h.putRunner (State.runner_mem hr) rfl rfl ((hsound r (State.runner_mem hr)).congr rfl rfl rfl rfl)

/-- A crossing with its place, sound and at a configured point, is set in a record. -/
theorem State.TableSound.setPlaced (h : State.TableSound [] s) {bib : Half} {r : Runner} (hr : s.runner bib = some r)
    {p : Point} (hp : s.registry.course[p].isSome = true) {c : Crossing} (hc : (s.takePlace p c).2.Sound) :
    State.TableSound [] ((s.takePlace p c).1.writeCrossing r p (some (s.takePlace p c).2)) := by
  obtain ⟨hruns, hcourse⟩ := s.takePlace_registry p c
  refine (h.takePlace p c).writeCrossing (hruns ▸ State.runner_mem hr) p fun x hx => ?_
  cases hx
  exact ⟨hc, hcourse ▸ hp⟩

theorem amendCrossing_tableSound (h : State.TableSound [] s) (bib : Half) (point : Byte) (time : Word32) :
    (amendCrossing bib point time s).Keeps (State.TableSound []) := by
  refine State.correctAt_keeps fun _ r p hr => Verdict.keeps_ite (fun _ => trivial) fun hp =>
    Verdict.keeps_ite (fun _ => trivial) fun _ => ?_
  have configured : s.registry.course[p].isSome = true := by simpa [Option.isSome_iff_ne_none] using hp
  refine h.setPlaced hr configured (s.takePlace_sound p (fun n hn => ?_) (iff_of_true rfl rfl) fun _ => ⟨rfl, rfl, rfl⟩)
  obtain ⟨old, hold, hplace⟩ := Option.bind_eq_some_iff.mp hn
  exact (h.crossing_sound (State.runner_mem hr) hold).2.2.2 n hplace

theorem clearCrossing_tableSound (h : State.TableSound [] s) (bib : Half) (point : Byte) :
    (clearCrossing bib point s).Keeps (State.TableSound []) :=
  State.correctAt_keeps fun _ _ p hr => Verdict.keeps_ite (fun _ => trivial) fun _ =>
    h.writeCrossing (State.runner_mem hr) p nofun

theorem acceptCrossing_tableSound (h : State.TableSound [] s) (bib : Half) (point : Byte) :
    (acceptCrossing bib point s).Keeps (State.TableSound []) := by
  refine State.correctAt_keeps fun _ r p hr => ?_
  split
  · trivial
  rename_i old hold
  refine Verdict.keeps_ite (fun _ => trivial) fun _ => ?_
  obtain ⟨-, -, hsound, -⟩ := h.runners
  obtain ⟨-, -, -, -, hcrossings⟩ := hsound r (State.runner_mem hr)
  obtain ⟨⟨hsource, hflags, -, hplace⟩, hp⟩ := hcrossings p old hold
  exact h.setPlaced hr hp (s.takePlace_sound p (c := { old with suspect := none }) hplace hsource fun ha =>
    ⟨(hflags ha).1, (hflags ha).2.1, rfl⟩)

/-! ## The course (R69, R70) -/

/-- The course changes at points without a crossing, or it gains a point. -/
theorem State.TableSound.withCourse (h : State.TableSound [] s) {t : State}
    (hcourse : ∀ r ∈ s.registry.runners, ∀ p : Point, r.crossings[p].isSome = true →
      s.registry.course[p].isSome = true → t.registry.course[p].isSome = true)
    (hr : t.registry.runners = s.registry.runners) (hn : ∀ p : Point, t.registry.counters[p] ≤ Config.maxPlace)
    (hm : t.registry.chipMap = s.registry.chipMap) (hp : t.park = s.park) : State.TableSound [] t := by
  obtain ⟨-, -, hsound, -⟩ := h.runners
  exact h.map id (hr.trans (List.map_id _).symm)
    (fun r hmem => ⟨rfl, rfl, (hsound r hmem).of_course (hcourse r hmem)⟩) hn hm hp

theorem setPoint_tableSound (h : State.TableSound [] s) (point : Byte) (distance : Half) (policy : Byte) (display : Bool) :
    (setPoint point distance policy display s).Keeps (State.TableSound []) := by
  refine State.unlessResetting_keeps fun _ => ?_
  split
  · rename_i p d pol _ _ _
    refine Verdict.keeps_ite (fun _ => trivial) fun _ => Verdict.keeps_ite (fun _ => ?_) fun _ => trivial
    refine h.withCourse (fun r _ q _ hq => ?_) rfl h.runners.2.2.2 rfl rfl
    by_cases e : q = p
    · subst e
      exact (congrArg Option.isSome (Course.set_same s.registry.course q _)).trans rfl
    · exact (congrArg Option.isSome (Course.set_other s.registry.course _ e)).trans hq
  · trivial

theorem ParkEntry.dropPoint_some {p : Point} {e f : ParkEntry} (h : e.dropPoint p = some f) :
    f.chip = e.chip ∧ ∃ q : Point, f.crossings[q].isSome = true := by
  simp only [ParkEntry.dropPoint] at h
  split at h
  · rename_i hany
    cases h
    obtain ⟨q, hq⟩ := (exists_mem_toList _ fun x : Option ParkedCrossing => x.isSome = true).mp (List.any_eq_true.mp hany)
    exact ⟨rfl, q, hq⟩
  · exact nomatch h

/-- Dropping a point leaves some of the entries, with their chips. -/
theorem chips_dropPoint_sublist (p : Point) (l : List ParkEntry) :
    ((l.filterMap (ParkEntry.dropPoint p)).map fun e => e.chip).Sublist (l.map fun e => e.chip) := by
  induction l with
  | nil => exact List.Sublist.refl _
  | cons e rest ih =>
    rw [List.filterMap_cons]
    cases hd : e.dropPoint p with
    | none => exact ih.trans (List.sublist_cons_self _ _)
    | some f =>
      rw [List.map_cons, List.map_cons, (ParkEntry.dropPoint_some hd).1]
      exact ih.cons_cons _

theorem clearPoint_tableSound (h : State.TableSound [] s) (point : Byte) :
    (clearPoint point s).Keeps (State.TableSound []) := by
  refine State.unlessResetting_keeps fun _ => ?_
  split
  · trivial
  rename_i p _
  refine Verdict.keeps_ite (fun _ => trivial) fun _ => Verdict.keeps_ite (fun _ => trivial) fun hfree => ?_
  rw [not_or] at hfree
  have unused : ∀ r ∈ s.registry.runners, r.crossings[p].isSome ≠ true := fun r hr hc => by
    refine hfree.2 ?_
    simp only [State.pointInUse, Bool.or_eq_true, List.any_eq_true]
    exact .inr ⟨r, hr, hc⟩
  have cleared := h.withCourse (t := s.withRegistry { s.registry with
      course := s.registry.course.set p none, counters := s.registry.counters.set p 0 })
    (fun r hr q hc hq => ?_) rfl (fun q => ?_) rfl rfl
  · have hsub := chips_dropPoint_sublist p s.park
    have hlen : (s.park.filterMap (ParkEntry.dropPoint p)).length ≤ s.park.length := List.length_filterMap_le ..
    refine cleared.withPark (hlen.trans h.length) (h.entries.sublist hsub) (fun e he => ?_) fun e he => ?_
    · obtain ⟨x, -, hx⟩ := List.mem_filterMap.mp he
      exact (ParkEntry.dropPoint_some hx).2
    · obtain ⟨x, hmem, hx⟩ := List.mem_filterMap.mp he
      rw [(ParkEntry.dropPoint_some hx).1]
      exact cleared.unknown x hmem
  · have e : q ≠ p := by
      rintro rfl
      exact unused r hr hc
    exact (congrArg Option.isSome (Course.set_other s.registry.course _ e)).trans hq
  · by_cases e : q = p
    · subst e
      show (s.registry.counters.set q 0)[q] ≤ _
      simp
    · show (s.registry.counters.set p 0)[q] ≤ _
      rw [show (s.registry.counters.set p 0)[q] = s.registry.counters[q] from
        Vector.getElem_set_ne _ _ fun eq => e (Fin.ext eq.symm)]
      exact h.runners.2.2.2 q

/-! ## Resets -/

/-- Records are cleared, or not, and the counters become 0 or stay (R84). -/
theorem State.TableSound.cleared (h : State.TableSound [] s) (bibs : List Half) {x : Registry}
    (hc : x.course = s.registry.course) (hr : x.runners = (s.registry.clear bibs).runners)
    (hn : x.counters = s.registry.counters ∨ x.counters = Vector.replicate 10 0)
    (hm : x.chipMap = s.registry.chipMap) : State.TableSound [] (s.withRegistry x) := by
  obtain ⟨-, -, hsound, hcounters⟩ := h.runners
  refine h.map (fun r => if bibs.contains r.bib then r.cleared else r) hr (fun r hmem => ?_) (fun p => ?_) hm rfl
  · have sound : r.Sound x.course := hc ▸ hsound r hmem
    split
    · exact ⟨rfl, rfl, sound.cleared⟩
    · exact ⟨rfl, rfl, sound⟩
  · show x.counters[p] ≤ _
    rcases hn with hn | hn
    · rw [hn]; exact hcounters p
    · rw [hn]; simp

theorem State.TableSound.zeroed (h : State.TableSound [] s) {x : Registry} (hc : x.course = s.registry.course)
    (hr : x.runners = s.registry.runners) (hn : x.counters = Vector.replicate 10 0)
    (hm : x.chipMap = s.registry.chipMap) : State.TableSound [] (s.withRegistry x) :=
  h.withCourse (fun r _ p _ hp => by rw [State.withRegistry_registry, hc]; exact hp) hr
    (fun p => by rw [State.withRegistry_registry, hn]; simp) hm rfl

theorem State.TableSound.finishReset (h : State.TableSound [] s) :
    State.TableSound [] (s.withRegistry s.registry.finishReset) := by
  unfold Registry.finishReset
  split
  · exact h.cleared s.registry.clearing rfl rfl (.inr rfl) rfl
  · exact h.of_registry rfl rfl rfl rfl rfl

end

theorem exec_tableSound (i : Instr) (s t : State) (hs : State.TableSound [] s) (h : exec i s = .next t) :
    State.TableSound [] t := by
  have hear : ∀ (l : Side) (u : State), State.TableSound [] u → State.TableSound [] (u.hearControl l) := fun l u hu =>
    hu.of_frame (u.hearControl_frame l)
  have send : ∀ (u : State) (m : Sent), State.TableSound [] u → State.TableSound [] (u.transmit m) := fun u m hu =>
    hu.of_eq rfl rfl
  have K := keptByReads_tableSound []
  cases hw : touches [.course, .runners, .chipMap, .park] i with
  | false =>
    have runners := read_of_not_touches hw h .runners (by decide)
    exact hs.of_registry (read_of_not_touches hw h .course (by decide)) (congrArg Prod.fst runners)
      (congrArg Prod.snd runners) (read_of_not_touches hw h .chipMap (by decide))
      (read_of_not_touches hw h .park (by decide))
  | true =>
    cases i <;> first | exact Bool.noConfusion hw | skip
    case powerOn =>
      cases h
      exact ⟨⟨Nat.zero_le _, List.nodup_nil, nofun, fun p => by simp [Registry.reset]⟩,
        ⟨List.nodup_nil, fun _ _ => ⟨nofun, nofun⟩⟩, Nat.zero_le _, List.nodup_nil, nofun, nofun⟩
    case stationReset cause =>
      have reset : ∀ rc, State.TableSound [] (s.stationReset rc) := fun rc =>
        (hs.withPark_sublist (List.nil_sublist _)).of_registry rfl rfl rfl rfl rfl
      simp only [exec, execStationReset, Host.Outcome.next.injEq] at h
      subst h
      cases cause with
      | resetLine => exact reset _
      | restart =>
        simp only
        split
        · exact reset _
        · exact hs
    case startUpEnd =>
      rcases exec_startUpEnd_cases h with rfl | ⟨_, u, hu, rfl⟩
      · exact hs
      · have ended : State.TableSound [] s.endStartUp := hs.finishReset.of_eq rfl rfl
        exact (ended.of_frame hu).of_frame u.takeReads_frame
    case readCompletion => exact K.exec (i := .readCompletion) rfl hs h
    case closeDeadline p chip => exact K.exec (i := .closeDeadline p chip) rfl hs h
    case setPoint l tag point distance policy display =>
      exact exec_keeps_of_handling (i := .setPoint l tag point distance policy display) rfl (hear l) send
        (fun u hu _ _ => setPoint_tableSound hu _ _ _ _) hs h
    case clearPoint l tag point =>
      exact exec_keeps_of_handling (i := .clearPoint l tag point) rfl (hear l) send
        (fun u hu _ _ => clearPoint_tableSound hu _) hs h
    case setPort l tag port point allowance =>
      exact exec_keeps_of_handling (i := .setPort l tag port point allowance) rfl (hear l) send
        (fun u hu _ _ => K.setPort (fun v _ hv => hv.of_registry rfl rfl rfl rfl rfl) port point allowance hu) hs h
    case setLimits l tag a =>
      exact exec_keeps_of_handling (i := .setLimits l tag a) rfl (hear l) send
        (fun u hu _ _ => K.setLimits (fun v _ hv => hv.of_registry rfl rfl rfl rfl rfl) a hu) hs h
    case register l tag bib wave chips name =>
      exact exec_keeps_of_handling (i := .register l tag bib wave chips name) rfl (hear l) send
        (fun u hu _ _ => registerRunner_tableSound hu _ _ _ _) hs h
    case remove l tag bib =>
      exact exec_keeps_of_handling (i := .remove l tag bib) rfl (hear l) send
        (fun u hu _ _ => removeRunner_tableSound hu _) hs h
    case setName l tag bib name =>
      exact exec_keeps_of_handling (i := .setName l tag bib name) rfl (hear l) send
        (fun u hu _ _ => setName_tableSound hu _ _) hs h
    case amend l tag bib point time =>
      exact exec_keeps_of_handling (i := .amend l tag bib point time) rfl (hear l) send
        (fun u hu _ _ => amendCrossing_tableSound hu _ _ _) hs h
    case amendClear l tag bib point =>
      exact exec_keeps_of_handling (i := .amendClear l tag bib point) rfl (hear l) send
        (fun u hu _ _ => clearCrossing_tableSound hu _ _) hs h
    case accept l tag bib point =>
      exact exec_keeps_of_handling (i := .accept l tag bib point) rfl (hear l) send
        (fun u hu _ _ => acceptCrossing_tableSound hu _ _) hs h
    case withdraw l tag bib =>
      exact exec_keeps_of_handling (i := .withdraw l tag bib) rfl (hear l) send (fun u hu _ _ =>
        State.correct_keeps fun _ _ hr => Verdict.keeps_ite (fun _ => hu.withStatus hr _) fun _ => trivial) hs h
    case disqualify l tag bib =>
      exact exec_keeps_of_handling (i := .disqualify l tag bib) rfl (hear l) send (fun u hu _ _ =>
        State.correct_keeps fun _ _ hr => Verdict.keeps_ite (fun _ => trivial) fun _ =>
          (hu.withStatus hr _).of_frame (State.dropBib_frame bib)) hs h
    case reinstate l tag bib =>
      exact exec_keeps_of_handling (i := .reinstate l tag bib) rfl (hear l) send (fun u hu _ _ =>
        State.correct_keeps fun _ _ hr => Verdict.keeps_ite (fun _ => hu.withStatus hr _) fun _ => trivial) hs h
    case bind l tag chip bib =>
      exact exec_keeps_of_handling (i := .bind l tag chip bib) rfl (hear l) send
        (fun u hu _ _ => bindChip_tableSound hu _ _) hs h
    case discard l tag chip =>
      exact exec_keeps_of_handling (i := .discard l tag chip) rfl (hear l) send (fun u hu _ _ =>
        State.unlessResetting_keeps fun _ => Verdict.keeps_ite (fun _ => trivial) fun _ =>
          Verdict.keeps_ite (fun _ => trivial) fun _ => hu.withPark_sublist List.filter_sublist) hs h
    case raceReset l tag =>
      refine exec_keeps_of_handling (i := .raceReset l tag) rfl (hear l) send (fun u hu _ _ => ?_) hs h
      refine State.unlessResetting_keeps fun _ => ?_
      have folded : State.TableSound [] ((List.finRange 12).foldl (fun x p => x.resetIntake p) u) :=
        hu.of_frame (State.foldl_frame (fun _ p => State.resetIntake_frame p) _)
      generalize (List.finRange 12).foldl (fun x p => x.resetIntake p) u = v at folded
      exact (folded.withPark_sublist (List.nil_sublist _)).of_registry rfl rfl rfl rfl rfl
    case raceResetCompletion =>
      simp only [exec, execRaceResetCompletion, Host.Outcome.next.injEq] at h
      subst h
      split
      · have answered := hs.of_frame s.answerReset_frame
        have zeroed : State.TableSound [] (s.answerReset.withRegistry s.answerReset.registry.completed) :=
          answered.zeroed rfl rfl rfl rfl
        exact zeroed.of_frame (State.takeReads_frame _)
      · exact hs
    case runnerRecordClearing bib =>
      simp only [exec, execRunnerRecordClearing, Host.Outcome.next.injEq] at h
      subst h
      split
      · split
        · exact hs.cleared [bib] rfl rfl (.inr rfl) rfl
        · exact hs.cleared [bib] rfl rfl (.inl rfl) rfl
      · exact hs

/-- Settles O56: the three are kept together, since a chip that joins the map leaves the Park List in the same
command. -/
theorem stepKeepsRunnersChipsAndPark : Obligations.StepKeepsRunnersChipsAndPark := by
  unfold Obligations.StepKeepsRunnersChipsAndPark
  intro s t hrunners hchips hpark h
  have start := s.tableSound_iff.mpr ⟨hrunners, hchips, hpark⟩
  exact t.tableSound_iff.mp (step_keeps (P := State.TableSound []) (fun _ _ hs => hs.of_eq rfl rfl) exec_tableSound
    start h)

end Sys2Proof.Machine

/-! The queue, the state after reset, and the two resets that take the part through start-up (12.1 to 12.4). -/

namespace Sys2Proof.Machine

set_option Elab.async false

/-- Settles O1. -/
theorem stepRunsFrontCommand : Obligations.StepRunsFrontCommand := by
  refine ⟨fun s c rest h => ?_, fun s h => ?_⟩
  · simp only [step, h]
  · simp only [step, h]

/-! ## The reset state -/

/-- Settles O2: every block's power-on value is written out. -/
theorem resetIsPowerOnState : Obligations.ResetIsPowerOnState := by
  have settings : State.reset.settings = Settings.defaults := by
    simp [State.settings, State.reset, Registry.reset, Settings.defaults, Screen.reset, Vector.ext_iff]
  refine ⟨rfl, fun p => ?_, fun p => ?_, ⟨rfl, rfl, fun p => ?_⟩, ⟨fun p => ?_, fun p => ?_, rfl, rfl, rfl, fun p => ?_, rfl,
    rfl, rfl⟩, rfl, fun k => ?_, settings, ⟨rfl, rfl, rfl, rfl, rfl, rfl, fun l => by cases l <;> rfl⟩,
    ⟨rfl, rfl, fun i => ?_⟩, rfl, rfl, rfl, rfl, rfl, rfl⟩
  all_goals simp [State.reset, MatIntake.reset, Alignment.reset, PassageUnit.reset, Registry.reset, Settings.defaults,
    Screen.reset, Profile.defaults, TallyUnit.reset, Tally.reset]

theorem State.reset_balanced : State.reset.Balanced := by
  rw [State.balanced_iff, State.heldOf_none rfl]
  intro p
  simpa [State.reset] using MatIntake.Balanced.reset

theorem State.reset_settingsSound : State.reset.SettingsSound :=
  State.settingsSound_of_loaded Settings.defaults_sound rfl rfl rfl (fun k => by simp [State.reset, Screen.reset, Settings.defaults])
    rfl fun _ h => nomatch h

theorem State.reset_screensSound : State.reset.ScreensSound := fun k => by
  simpa [State.reset] using Screen.reset_sound Profile.defaults

theorem State.reset_resetSound : State.reset.ResetSound :=
  (State.resetSound_iff _).mpr ⟨State.requestSound_of_idle (fun l => by cases l <;> rfl) rfl fun _ => rfl, nofun⟩

/-- Settles O3: the invariant of each block, at its power-on value. -/
theorem resetStateIsSound : Obligations.ResetStateIsSound := by
  refine ⟨RaceClock.sound_of_zero rfl rfl rfl rfl rfl rfl, State.reset_balanced,
    State.Aligned.of_cleared fun p => by simp [State.reset], State.passagesSound_of_reset rfl rfl, State.reset_settingsSound,
    ⟨Nat.zero_le _, List.nodup_nil, nofun, fun p => ?_⟩, ⟨List.nodup_nil, fun chip bib => ?_⟩,
    ⟨Nat.zero_le _, List.nodup_nil, nofun, nofun⟩, State.reset_screensSound, nofun,
    ⟨Nat.zero_le _, List.not_mem_nil, List.nodup_nil, Nat.zero_le _⟩, State.reset_resetSound, State.talliesSound_of_reset rfl,
    State.storeSound_of_idle rfl rfl nofun⟩
  · simp [State.reset, Registry.reset]
  · simp [State.reset, Registry.reset]

/-! ## Power-on and station reset -/

theorem SettingsStore.loaded_eq {x : SettingsStore} {w : Settings}
    (h : x.valid = true ∧ x.image = some w ∨ x.valid = false ∧ w = Settings.defaults) : x.loaded = w := by
  rcases h with ⟨hvalid, himage⟩ | ⟨hvalid, rfl⟩
  · simp [SettingsStore.loaded, hvalid, himage]
  · simp [SettingsStore.loaded, hvalid]

/-- Settles O4. -/
theorem powerOnLoadsSettings : Obligations.PowerOnLoadsSettings := by
  intro s w h
  simp only [exec, execPowerOn, SettingsStore.loaded_eq h]
  rfl

/-- Settles O5. -/
theorem stationResetKeepsRecords : Obligations.StationResetKeepsRecords := by
  intro s cause rc h
  have reset : exec (.stationReset cause) s = .next (s.stationReset rc) := by
    rcases h with ⟨rfl, rfl⟩ | ⟨rfl, hdue, rfl⟩
    · rfl
    · simp [exec, execStationReset, hdue]
  exact reset

/-! ## The end of start-up -/

/-- The conditions `cs` raised one after another over the state `s` add each of them to both pending sets and freeze the
tallies when one is a trigger (R168, R179). -/
theorem State.raiseAll_eq (cs : List Condition) (s : State) : ∃ a b : CondSet,
    (∀ c, c ∈ a ↔ c ∈ cs ∨ c ∈ s.control.linkA.pending) ∧ (∀ c, c ∈ b ↔ c ∈ cs ∨ c ∈ s.control.linkB.pending) ∧
    cs.foldl (fun t c => t.raise c) s = { s with
      control := { s.control with
        linkA := { s.control.linkA with pending := a }, linkB := { s.control.linkB with pending := b } }
      tally := { s.tally with frozen := s.tally.frozen || decide (∃ c ∈ s.tally.triggers, c ∈ cs) } } := by
  induction cs generalizing s with
  | nil => exact ⟨s.control.linkA.pending, s.control.linkB.pending, fun c => by simp, fun c => by simp, by simp⟩
  | cons x cs ih =>
    obtain ⟨a, b, ha, hb, e⟩ := ih (s.raise x)
    refine ⟨a, b, fun c => ?_, fun c => ?_, ?_⟩
    · rw [ha, State.raise_eq, CondSet.mem_add, List.mem_cons]; tauto
    · rw [hb, State.raise_eq, CondSet.mem_add, List.mem_cons]; tauto
    · have split : decide (∃ c ∈ s.tally.triggers, c ∈ x :: cs) =
          (s.tally.triggers.contains x || decide (∃ c ∈ s.tally.triggers, c ∈ cs)) := by
        rw [List.contains_eq_mem, ← Bool.decide_or, decide_eq_decide]
        simp only [List.mem_cons]
        aesop
      rw [List.foldl_cons, e, State.raise_eq, split, Bool.or_assoc]

/-- The conditions that the end of start-up raises (R175). -/
def State.endConditions (s : State) : List Condition :=
  if s.control.resetCause == .powerOn && !s.store.valid then [.restarted, .storeInvalid] else [.restarted]

theorem State.mem_endConditions (s : State) (c : Condition) : c ∈ s.endConditions ↔
    c = .restarted ∨ c = .storeInvalid ∧ s.control.resetCause = .powerOn ∧ s.store.valid = false := by
  unfold State.endConditions
  split
  · rename_i h; simp_all
  · rename_i h; simp_all

theorem State.raise_endConditions (s : State) :
    (s.raise .restarted).raiseIf ((s.raise .restarted).control.resetCause == .powerOn && !(s.raise .restarted).store.valid)
      .storeInvalid = s.endConditions.foldl (fun t c => t.raise c) s := by
  have cause : (s.raise .restarted).control.resetCause = s.control.resetCause := by rw [State.raise_eq]
  have valid : (s.raise .restarted).store = s.store := by rw [State.raise_eq]
  rw [cause, valid, State.raiseIf, State.endConditions]
  split <;> rfl

theorem Registry.finishReset_eq (x : Registry) : x.finishReset = if x.state = .resetting then
    { x with
      runners := x.runners.map fun r => if x.clearing.contains r.bib then
        { r with crossings := Vector.replicate 10 none, status := .registered } else r
      clearing := [], counters := Vector.replicate 10 0, state := .ready, requester := none }
    else { x with requester := none } := by
  unfold Registry.finishReset
  split
  · have none_left : (x.clear x.clearing).clearing = [] := x.clear_all_clearing
    simp only [Registry.completed, Registry.zeroCounters, none_left]
    rfl
  · rfl

/-- Settles O6. -/
theorem startUpEndsReady : Obligations.StartUpEndsReady := by
  intro s hstart
  obtain ⟨a, b, ha, hb, e⟩ := State.raiseAll_eq (s.withRegistry s.registry.finishReset).endConditions (s.withRegistry s.registry.finishReset)
  refine ⟨a, b, fun c => ?_, fun c => ?_, ?_⟩
  · rw [ha, State.mem_endConditions]; rfl
  · rw [hb, State.mem_endConditions]; rfl
  · have frozen : decide (∃ c ∈ s.tally.triggers, c ∈ s.endConditions) = decide (∃ c ∈ s.tally.triggers,
        c = .restarted ∨ c = .storeInvalid ∧ s.control.resetCause = .powerOn ∧ s.store.valid = false) := by
      simp only [State.mem_endConditions]
    simp only [exec, execStartUpEnd, hstart, if_true]
    rw [State.raise_endConditions]
    rw [e]
    congr 2
    simp only [State.withClock, State.mk.injEq]
    refine ⟨rfl, rfl, rfl, rfl, s.registry.finishReset_eq, rfl, rfl, rfl, ?_, rfl, trivial, rfl, rfl, rfl, rfl⟩
    exact congrArg (fun b => { s.tally with frozen := s.tally.frozen || b }) frozen

end Sys2Proof.Machine

/-! Race Reset from its beginning to its end (5.6). -/

namespace Sys2Proof.Machine

set_option Elab.async false

section
variable {s : State}

/-- A command that its own rule answers OK. -/
theorem exec_of_ok {i : Instr} {l : Side} {tag : Byte} {t : State} (hsender : sender i = some (l, tag))
    (hready : s.ready l) (htoken : isOpen i = true ∨ s.control.token = .held l)
    (h : ownHandling i (s.hearControl l) = .ok t) : exec i s = .next (t.respond l tag .ok .nothing) := by
  rw [exec_of_ready hsender hready htoken, h]; rfl

/-- A command that its own rule refuses. -/
theorem exec_of_refused {i : Instr} {l : Side} {tag : Byte} {r : Result} (hsender : sender i = some (l, tag))
    (hready : s.ready l) (htoken : isOpen i = true ∨ s.control.token = .held l)
    (h : ownHandling i (s.hearControl l) = .refuse r) :
    exec i s = .next ((s.hearControl l).respond l tag r .nothing) := by
  rw [exec_of_ready hsender hready htoken, h]; rfl

/-- The CREDIT that port `p` sends at the beginning of a Race Reset (R34). -/
def State.resetCredit (s : State) (p : Port) : Sent :=
  .credit p (s.intake[p].grant + BitVec.ofNat 8 (s.intake[p].list.length + s.heldOf p))

theorem MatIntake.raceReset_of_up {m : MatIntake} (h : m.link = .up) (held : Nat) : m.raceReset held = { m with
    list := [], outstanding := 32, unreported := 0, grant := m.grant + BitVec.ofNat 8 (m.list.length + held) } := by
  simp [MatIntake.raceReset, h]

theorem MatIntake.raceReset_of_down {m : MatIntake} (h : m.link = .down) (held : Nat) :
    m.raceReset held = { m with list := [] } := by
  simp [MatIntake.raceReset, h]

theorem State.resetIntake_eq (s : State) (p : Port) : s.resetIntake p = { s with
    intake := s.intake.set p (s.intake[p].raceReset (s.heldOf p))
    sent := s.sent ++ if s.intake[p].link == .up then [s.resetCredit p] else [] } := by
  unfold State.resetIntake
  cases h : s.intake[p].link with
  | up => rw [MatIntake.raceReset_of_up h]; simp only [h]; rfl
  | down => rw [MatIntake.raceReset_of_down h]; simp [h, State.withIntake, -Fin.getElem_fin]

/-- What Mat Intake changes at the beginning of a Race Reset on the ports `ps` (R34). -/
theorem State.resetIntakes_eq (ps : List Port) (hn : ps.Nodup) (s : State) :
    ps.foldl (fun x p => x.resetIntake p) s = { s with
      intake := (ps.foldl (fun x p => x.resetIntake p) s).intake
      sent := s.sent ++ (ps.filter fun p => s.intake[p].link == .up).map s.resetCredit } := by
  induction ps generalizing s with
  | nil => simp
  | cons q ps ih =>
    obtain ⟨hq, hn⟩ := List.nodup_cons.1 hn
    have other : ∀ p ∈ ps, (s.resetIntake q).intake[p] = s.intake[p] := fun p hp => by
      have ne : q.val ≠ p.val := fun e => hq (Fin.ext e ▸ hp)
      rw [State.resetIntake_eq]
      exact Vector.getElem_set_ne q.isLt p.isLt ne
    have filters : (ps.filter fun p => (s.resetIntake q).intake[p].link == .up) =
        ps.filter fun p => s.intake[p].link == .up := List.filter_congr fun p hp => by rw [other p hp]
    have credits : (ps.filter fun p => s.intake[p].link == .up).map (s.resetIntake q).resetCredit =
        (ps.filter fun p => s.intake[p].link == .up).map s.resetCredit := List.map_congr_left fun p hp => by
      have held : (s.resetIntake q).heldOf p = s.heldOf p := by rw [State.resetIntake_eq]; rfl
      rw [State.resetCredit, other p (List.mem_of_mem_filter hp), held, State.resetCredit]
    have sent : (s.resetIntake q).sent ++ (ps.filter fun p => s.intake[p].link == .up).map s.resetCredit =
        s.sent ++ ((q :: ps).filter fun p => s.intake[p].link == .up).map s.resetCredit := by
      rw [State.resetIntake_eq, List.filter_cons, List.append_assoc]
      cases s.intake[q].link == .up <;> rfl
    rw [List.foldl_cons, ih hn, filters, credits, sent, State.resetIntake_eq]

end

/-- What RACE RESET leaves of a state in which Mat Intake applied its part: every other block's part of the beginning,
and the command in progress (R83). -/
def State.raceBegun (f : State) (l : Side) (tag : Byte) : State :=
  let u := f.resetBlocks.withRegistry { f.registry with
    state := .resetting, requester := some l, clearing := f.registry.runners.map fun r => r.bib }
  u.withLink l { u.controlLink l with inProgress := some { kind := 39, tag } }

theorem exec_raceReset {s : State} {l : Side} (h : s.mayEdit l) (tag : Byte) : exec (.raceReset l tag) s =
    .next (((List.finRange 12).foldl (fun x p => x.resetIntake p) (s.hearControl l)).raceBegun l tag) := by
  rw [exec_of_ready (i := .raceReset l tag) rfl h.1.1 (.inr h.1.2), ownHandling, beginRaceReset,
    State.unlessResetting_ready h.2]
  generalize (List.finRange 12).foldl (fun x p => x.resetIntake p) (s.hearControl l) = f
  rfl

/-- Settles O7. -/
theorem raceResetBegins : Obligations.RaceResetBegins := by
  intro s l tag h
  refine ⟨_, exec_raceReset h tag, ?_⟩
  have accounts : ∀ p : Port, _ = s.intake[p].raceReset (s.heldOf p) := (s.hearControl l).resetIntakes_intake
  have sends := State.resetIntakes_eq (List.finRange 12) (List.nodup_finRange 12) (s.hearControl l)
  generalize (List.finRange 12).foldl (fun x p => x.resetIntake p) (s.hearControl l) = f at accounts sends ⊢
  have kept : ∀ p : Port, (f.raceBegun l tag).intake[p] = s.intake[p].raceReset (s.heldOf p) := accounts
  refine ⟨?_, fun p hup => ?_, fun p hdown => ?_, ?_, fun p => ?_, ?_, ?_, rfl, fun k => ?_, ?_, ?_, ?_, ?_, ?_, ?_, ?_⟩
  · rw [sends]; rfl
  · rw [kept, MatIntake.raceReset_of_up hup]
  · rw [kept, MatIntake.raceReset_of_down hdown]
  · rw [sends]; rfl
  · simp [State.raceBegun, State.resetBlocks, State.clearAlignment, Alignment.reset]
  · rw [sends]; rfl
  · rw [sends]; rfl
  · have screens : f.screens = s.screens := by rw [sends]; rfl
    simp [State.raceBegun, State.resetBlocks, Screen.raceReset, Screen.emptied, screens]
  · rw [sends]; cases l <;> rfl
  all_goals rw [sends]; rfl

/-- One record is cleared by its bib (R84). -/
theorem Registry.clear_one (x : Registry) (bib : Half) : x.clear [bib] = { x with
    runners := x.runners.map fun r => if r.bib = bib then
      { r with crossings := Vector.replicate 10 none, status := .registered } else r
    clearing := x.clearing.filter fun b => b != bib } := by
  simp only [Registry.clear, Runner.cleared, List.contains_cons, List.contains_nil, Bool.or_false, beq_iff_eq]
  rfl

/-- RACE_RESET_COMPLETION with a RACE RESET in progress on the requester's link (R84). -/
theorem State.answerReset_of_requester {s : State} {l : Side} {c : Progress} (hl : s.registry.requester = some l)
    (hc : (s.controlLink l).inProgress = some c) :
    s.answerReset = (s.withLink l { s.controlLink l with inProgress := none }).respond l c.tag .ok .nothing := by
  simp [State.answerReset, hl, hc]

/-- Settles O8. -/
theorem raceResetClearsAndCompletes : Obligations.RaceResetClearsAndCompletes := by
  refine ⟨fun s bib hstate hmem => ?_, fun s l c hstate hdone hl hc => ?_⟩
  · have cond : (s.resetting && s.registry.clearing.contains bib) = true := by
      simp [State.resetting_iff, hstate, hmem]
    simp only [exec, execRunnerRecordClearing, cond, if_true, Registry.clear_one]
    congr 1
    by_cases last : (s.registry.clearing.filter fun b => b != bib) = []
    · simp only [last, if_true, List.isEmpty_nil]
      rfl
    · simp only [last, if_false, List.isEmpty_iff]
      rfl
  · have cond : (s.resetting && s.registry.clearing.isEmpty) = true := by simp [State.resetting_iff, hstate, hdone]
    simp only [exec, execRaceResetCompletion, cond, if_true, State.answerReset_of_requester hl hc]
    rfl

end Sys2Proof.Machine

/-! The Race Clock: counting, the clock commands and guns (1.1, 1.3, 1.4). -/

namespace Sys2Proof.Machine

set_option Elab.async false

section
variable {s : State}

/-- The clock after it took the value `v` (R4, R7). -/
def RaceClock.reached (c : RaceClock) (v : Nat) : RaceClock := { c with
  value := v, limitMark := c.limitMark || decide (v = 4294967295), latestPulse := if v % 1000 = 0 then some v else c.latestPulse }

/-- Taking a value sets the clock, raises CLOCK_LIMIT at the limit and drives the pulse of a whole race second; the
limit is no whole race second (R4, R7). -/
theorem State.reachValue_eq (s : State) (v : Nat) : s.reachValue v =
    let t := s.withClock (s.clock.reached v)
    let u := if v = 4294967295 ∧ s.clock.limitMark = false then t.raise .clockLimit else t
    if v % 1000 = 0 then u.transmit (.pulse v) else u := by
  by_cases hmark : v = 4294967295 ∧ s.clock.limitMark = false
  · obtain ⟨rfl, hm⟩ := hmark
    have limited : (s.withClock { s.clock with value := 4294967295 }).markLimit =
        (s.withClock (s.clock.reached 4294967295)).raise .clockLimit := by
      simp only [State.markLimit, State.now, State.withClock_clock, hm, and_self, if_true, RaceClock.reached, Config.maxRaceTime]
      rfl
    have now : ((s.withClock (s.clock.reached 4294967295)).raise .clockLimit).now = 4294967295 :=
      congrArg RaceClock.value (State.raise_frame _ _).clock
    rw [State.reachValue, limited, State.drivePulse, now, if_neg (by decide)]
    simp [hm]
  · have limited : (s.withClock { s.clock with value := v }).markLimit = s.withClock { s.clock with
        value := v, limitMark := s.clock.limitMark || decide (v = 4294967295) } := by
      simp only [State.markLimit, State.now, State.withClock_clock, Config.maxRaceTime, hmark, if_false]
      rcases not_and_or.mp hmark with hv | hm
      · simp [hv]
      · simp [Bool.of_not_eq_false hm]
    simp only [State.reachValue, limited, State.drivePulse, State.now, State.withClock_clock, Config.pulsePeriod, hmark,
      if_false, RaceClock.reached]
    split <;> rfl

end

/-- A millisecond moves a running clock below its limit to the next value (R1, R4). -/
theorem exec_countedMillisecond_of_running {s : State} (hrun : s.clock.state = .running) (hbelow : s.clock.value < 4294967295) :
    exec .countedMillisecond s = .next ({ s with elapsed := s.elapsed + 1 }.reachValue (s.clock.value + 1)) := by
  have cond : (s.clockRuns && decide (s.now < Config.maxRaceTime)) = true := by
    simp [State.clockRuns, State.now, Config.maxRaceTime, hrun, hbelow]
  exact congrArg Host.Outcome.next (if_pos cond)

/-- Settles O11. -/
theorem countedMillisecondCounts : Obligations.CountedMillisecondCounts := by
  refine ⟨fun s h => ?_, fun s hrun hbelow hmod => ?_, fun s hrun hbelow hmod => ?_, fun s hrun hlast hmark => ?_⟩
  · have cond : (s.clockRuns && decide (s.now < Config.maxRaceTime)) = false := by
      rcases h with h | h <;> simp [State.clockRuns, State.now, Config.maxRaceTime, h]
    exact congrArg Host.Outcome.next (if_neg (ne_true_of_eq_false cond))
  · have below : s.clock.value + 1 ≠ 4294967295 := by omega
    rw [exec_countedMillisecond_of_running hrun (by omega), State.reachValue_eq]
    simp [RaceClock.reached, below, hmod, State.withClock]
  · have below : s.clock.value + 1 ≠ 4294967295 := by omega
    rw [exec_countedMillisecond_of_running hrun (by omega), State.reachValue_eq]
    simp [RaceClock.reached, below, hmod, State.withClock, State.transmit]
  · rw [exec_countedMillisecond_of_running hrun (by omega), State.reachValue_eq, hlast]
    simp [RaceClock.reached, hmark, State.withClock]

/-- The part before a started clock takes its preset `v` (R2, R47, R63). -/
def State.launched (s : State) (v : Nat) : State :=
  ((s.withClock { s.clock with
    state := .running, latestPulse := none, limitMark := s.clock.limitMark && decide (Config.maxRaceTime ≤ v) })
    ).clearAlignment.voidPassages

/-- Settles O13. -/
theorem startClockStarts : Obligations.StartClockStarts := by
  refine ⟨fun s l tag preset v h hstopped hv => ?_, fun s l tag preset h hrun => ?_⟩
  · have bound : v ≤ 4294967295 := by
      cases preset with
      | none => simp [hv]
      | some x => have := x.isLt; simp [hv]; omega
    refine exec_of_ok (i := .startClock l tag preset) rfl h.1.1 (.inr h.1.2) ?_
    have runs : (s.hearControl l).clockRuns = false := by simp [State.clockRuns, State.hearControl, hstopped]
    have mark : ((s.hearControl l).clock.limitMark && decide (Config.maxRaceTime ≤ v) || decide (v = 4294967295)) =
        decide (v = 4294967295) := by
      rcases eq_or_ne v 4294967295 with rfl | hne
      · simp
      · have above : ¬ Config.maxRaceTime ≤ v := by simp only [Config.maxRaceTime]; omega
        simp [hne, above]
    have crosses : (v = 4294967295 ∧ ((s.hearControl l).launched v).clock.limitMark = false) ↔
        v = 4294967295 ∧ s.clock.limitMark = false := and_congr_right fun e => by
      rw [show ((s.hearControl l).launched v).clock.limitMark = (s.clock.limitMark && decide (Config.maxRaceTime ≤ v)) from rfl,
        e, show decide (Config.maxRaceTime ≤ 4294967295) = true from rfl, Bool.and_true]
    have clock : ((s.hearControl l).launched v).clock.reached v = { s.clock with
        state := .running, value := v, limitMark := decide (v = 4294967295)
        latestPulse := if v % 1000 = 0 then some v else none } :=
      congrArg (fun m => { s.clock with
        state := .running, value := v, limitMark := m, latestPulse := if v % 1000 = 0 then some v else none }) mark
    have handled : startClock preset (s.hearControl l) = .ok (((s.hearControl l).launched v).reachValue v) := by
      rw [startClock, State.unlessResetting_ready h.2, runs, ← hv]
      rfl
    rw [ownHandling, handled, State.reachValue_eq, clock]
    simp only [crosses]
    rfl
  · refine exec_of_refused (i := .startClock l tag preset) rfl h.1.1 (.inr h.1.2) ?_
    have runs : (s.hearControl l).clockRuns = true := by simp [State.clockRuns, State.hearControl, hrun]
    simp only [ownHandling, startClock, State.unlessResetting_ready h.2, runs, if_true]

/-- Settles O14. -/
theorem stopClockStops : Obligations.StopClockStops := by
  refine ⟨fun s l tag h hrun hguns => ?_, fun s l tag h hno => ?_⟩
  · refine exec_of_ok (i := .stopClock l tag) rfl h.1.1 (.inr h.1.2) ?_
    have runs : ((s.hearControl l).clockRuns && (s.hearControl l).noGun) = true := by
      rw [Bool.and_eq_true, State.noGun_iff]
      exact ⟨beq_iff_eq.mpr hrun, hguns⟩
    simp only [ownHandling, stopClock, State.unlessResetting_ready h.2, runs, if_true]
    rfl
  · refine exec_of_refused (i := .stopClock l tag) rfl h.1.1 (.inr h.1.2) ?_
    have runs : ¬ ((s.hearControl l).clockRuns && (s.hearControl l).noGun) = true := by
      rw [Bool.and_eq_true, State.noGun_iff]
      rintro ⟨hrun, hguns⟩
      rcases hno with hstopped | ⟨w, hw⟩
      · exact nomatch hstopped.symm.trans (beq_iff_eq.mp hrun)
      · rw [show s.clock.guns[w] = none from hguns w] at hw
        exact nomatch hw
    simp only [ownHandling, stopClock, State.unlessResetting_ready h.2, runs]
    rfl

/-- GUN of the wave `w` after the wave number was read (R10). -/
theorem fireGun_of_wave {s : State} {wave : Byte} {w : Wave} (hready : s.registry.state = .ready)
    (hw : wave.toNat = w.val) (time : Option Word32) : fireGun wave time s =
    if !s.clockRuns then .refuse .state
    else if s.clock.value < (time.map fun x => x.toNat).getD s.clock.value then .refuse .range
    else if s.gunStands w then .refuse .state
    else .ok (s.withClock { s.clock with
      guns := s.clock.guns.set w (some ((time.map fun x => x.toNat).getD s.clock.value)), locked := true }) := by
  rw [fireGun, State.unlessResetting_of_ready hready, waveOf, indexOf_some hw]
  rfl

theorem State.clockRuns_iff (s : State) : s.clockRuns = true ↔ s.clock.state = .running := beq_iff_eq

/-- A wave may not be gunned again exactly when it holds a gun and one of its runners a crossing (R10, R11). -/
theorem State.gunStands_iff (s : State) (w : Wave) : s.gunStands w = true ↔
    s.clock.guns[w].isSome = true ∧ ∃ r ∈ s.registry.runners, r.wave = w ∧ ∃ p : Point, r.crossings[p].isSome = true := by
  simp only [State.gunStands, Bool.and_eq_true, List.any_eq_true, beq_iff_eq, Runner.holdsCrossing_iff]

/-- Settles O15. -/
theorem gunSetsWaveAndLock : Obligations.GunSetsWaveAndLock := by
  refine ⟨fun s l tag wave time w t h hw ht hrun hle hfree => ?_, fun s l tag wave time h hout => ?_,
    fun s l tag wave time h hin hstopped => ?_, fun s l tag wave time h hin hrun hlate => ?_,
    fun s l tag wave time w r p h hw hrun hle hgun hr hwave hp => ?_⟩
  · have runs : (s.hearControl l).clockRuns = true := (State.clockRuns_iff _).mpr hrun
    have stands : ¬ (s.hearControl l).gunStands w = true := by
      rw [State.gunStands_iff]
      rintro ⟨hgun, r, hr, hwave, p, hp⟩
      rcases hfree with hnone | hfree
      · rw [show (s.hearControl l).clock.guns[w] = none from hnone] at hgun
        exact nomatch hgun
      · rw [hfree r hr hwave p] at hp
        exact nomatch hp
    refine exec_of_ok (i := .gun l tag wave time) rfl h.1.1 (.inr h.1.2) ?_
    rw [ownHandling, fireGun_of_wave (s := s.hearControl l) h.2 hw, runs, if_neg (by decide), if_neg (by subst ht; exact not_lt.mpr hle), if_neg stands]
    subst ht
    rfl
  · refine exec_of_refused (i := .gun l tag wave time) rfl h.1.1 (.inr h.1.2) ?_
    rw [ownHandling, fireGun, State.unlessResetting_ready h.2, waveOf, indexOf_none (by omega)]
  · have runs : (s.hearControl l).clockRuns = false := by simp [State.clockRuns, State.hearControl, hstopped]
    refine exec_of_refused (i := .gun l tag wave time) rfl h.1.1 (.inr h.1.2) ?_
    rw [ownHandling, fireGun_of_wave (s := s.hearControl l) (w := ⟨wave.toNat, by omega⟩) h.2 rfl, runs]
    rfl
  · have runs : (s.hearControl l).clockRuns = true := (State.clockRuns_iff _).mpr hrun
    refine exec_of_refused (i := .gun l tag wave (some time)) rfl h.1.1 (.inr h.1.2) ?_
    rw [ownHandling, fireGun_of_wave (s := s.hearControl l) (w := ⟨wave.toNat, by omega⟩) h.2 rfl, runs, if_neg (by decide)]
    exact if_pos hlate
  · have runs : (s.hearControl l).clockRuns = true := (State.clockRuns_iff _).mpr hrun
    have given : ¬ s.clock.value < (time.map fun x => x.toNat).getD s.clock.value := by
      cases time with
      | none => exact lt_irrefl _
      | some x => exact not_lt.mpr (hle x rfl)
    have stands : (s.hearControl l).gunStands w = true :=
      (State.gunStands_iff _ _).mpr ⟨hgun, r, hr, hwave, p, hp⟩
    refine exec_of_refused (i := .gun l tag wave time) rfl h.1.1 (.inr h.1.2) ?_
    rw [ownHandling, fireGun_of_wave (s := s.hearControl l) h.2 hw, runs, if_neg (by decide)]
    exact (if_neg given).trans (if_pos stands)

end Sys2Proof.Machine

/-! Taking reads and returning credits, and the deadlines of the mat ports and screens (2.2, 2.4, 3.4, 3.5, 4.1). -/

namespace Sys2Proof.Machine

set_option Elab.async false

section
variable {s : State} {p : Port}

/-! ## The CREDIT check (R29) -/

theorem MatIntake.creditDue_iff (m : MatIntake) :
    m.creditDue = true ↔ m.link = .up ∧ (8 ≤ m.unreported ∨ 1 ≤ m.unreported ∧ m.list = []) := by
  simp [MatIntake.creditDue, Config.creditBatch]

theorem State.creditCheck_of_due (h : s.intake[p].creditDue = true) : s.creditCheck p =
    (s.withIntake p { s.intake[p] with unreported := 0 }).transmit (.credit p s.intake[p].grant) := if_pos h

theorem State.creditCheck_of_not_due (h : ¬ s.intake[p].creditDue = true) : s.creditCheck p = s := if_neg h

/-- Settles O20. -/
theorem creditReturnsAndIsReported : Obligations.CreditReturnsAndIsReported := by
  intro s p
  refine ⟨fun hdown => ⟨?_, ?_⟩, fun hup => ?_, fun hup h => ?_, fun hfew h => ?_⟩
  · simp only [State.returnCredit]
    exact if_neg (by rw [hdown]; decide)
  · refine State.creditCheck_of_not_due fun due => ?_
    exact nomatch hdown.symm.trans ((MatIntake.creditDue_iff _).mp due).1
  · exact if_pos (beq_iff_eq.mpr hup)
  · exact State.creditCheck_of_due ((MatIntake.creditDue_iff _).mpr ⟨hup, h⟩)
  · refine State.creditCheck_of_not_due fun due => ?_
    obtain ⟨_, hmany | ⟨hone, hempty⟩⟩ := (MatIntake.creditDue_iff _).mp due
    · exact absurd hmany (not_le.mpr hfew)
    · rcases h with hzero | hne
      · exact absurd hone (by rw [hzero]; decide)
      · exact hne hempty

/-! ## The reads that wait -/

/-- A changed account changes the number of waiting reads by its own list alone. -/
theorem State.waitingReads_withIntake (s : State) (p : Port) (m : MatIntake) :
    (s.withIntake p m).waitingReads + s.intake[p].list.length = s.waitingReads + m.list.length := by
  have lt : p.val < (s.intake.toList.map fun m => m.list.length).length := by simp
  have same : (s.intake.toList.map fun m => m.list.length) =
      (s.intake.toList.map fun m => m.list.length).set p s.intake[p].list.length := by
    refine (List.set_getElem_self lt).symm.trans ?_
    simp
  have before := congrArg List.sum same
  rw [List.sum_set, if_pos lt] at before
  have after : (s.withIntake p m).waitingReads = ((s.intake.toList.map fun m => m.list.length).set p m.list.length).sum := by
    rw [State.waitingReads, ← List.map_set]
    exact congrArg (fun l => (l.map fun m : MatIntake => m.list.length).sum) (Vector.toList_set (h := p.isLt))
  rw [after, List.sum_set, if_pos lt, State.waitingReads]
  omega

theorem State.waitingReads_of_intake {t : State} (h : t.intake = s.intake) : t.waitingReads = s.waitingReads := by
  rw [State.waitingReads, h]; rfl

theorem State.waitingReads_creditCheck (s : State) (p : Port) : (s.creditCheck p).waitingReads = s.waitingReads := by
  by_cases due : s.intake[p].creditDue = true
  · rw [State.creditCheck_of_due due, State.waitingReads_of_intake (State.transmit_intake _ _)]
    exact Nat.add_right_cancel (s.waitingReads_withIntake p { s.intake[p] with unreported := 0 })
  · rw [State.creditCheck_of_not_due due]

theorem State.waitingReads_returnCredit (s : State) (p : Port) : (s.returnCredit p).waitingReads = s.waitingReads := by
  unfold State.returnCredit
  split
  · rw [State.waitingReads_creditCheck]
    exact Nat.add_right_cancel (s.waitingReads_withIntake p s.intake[p].credited)
  · rfl

theorem State.waitingReads_removeRead {x : IntakeRead} {rest : List IntakeRead} (h : s.intake[p].list = x :: rest) :
    (s.removeRead p rest).waitingReads + 1 = s.waitingReads := by
  have less := s.waitingReads_withIntake p { s.intake[p] with list := rest }
  rw [h, List.length_cons] at less
  have kept : (s.removeRead p rest).waitingReads = (s.withIntake p { s.intake[p] with list := rest }).waitingReads :=
    State.waitingReads_creditCheck _ p
  rw [kept]
  exact Nat.add_right_cancel (m := rest.length) ((Nat.add_right_comm _ _ _).trans less)

/-! ## The rotation (R51) -/

theorem State.takeUpTo_of_busy (h : s.mayTake = false) (n : Nat) : s.takeUpTo n = s := by
  cases n with
  | zero => rfl
  | succ n => rw [State.takeUpTo, if_neg (by rw [h]; decide)]

theorem State.nextPort_eq_none (h : ∀ p : Port, s.intake[p].list = []) : s.nextPort = none := by
  simp only [State.nextPort, List.find?_eq_none]
  intro p _
  simp only [h p, List.isEmpty_nil, Bool.not_true, Bool.false_eq_true, not_false_eq_true]

/-- The port served next is the first one with a read in the rotation (R51). -/
theorem State.nextPort_eq (hlist : s.intake[p].list ≠ [])
    (hempty : ∀ i : Fin 12, i < p - (s.passage.lastServed + 1) → s.intake[s.passage.lastServed + 1 + i].list = []) :
    s.nextPort = some p := by
  rw [State.nextPort, List.find?_map, Option.map_eq_some_iff]
  refine ⟨p - (s.passage.lastServed + 1), ?_, by simp⟩
  rw [List.find?_eq_some_iff_getElem]
  refine ⟨by simpa using hlist, (p - (s.passage.lastServed + 1)).val, by simp, by simp, fun j hj => ?_⟩
  simpa using hempty ⟨j, hj.trans (Fin.isLt _)⟩ hj

theorem State.takeUpTo_succ {x : IntakeRead} {rest : List IntakeRead} (hmay : s.mayTake = true)
    (hnext : s.nextPort = some p) (hlist : s.intake[p].list = x :: rest) (n : Nat) :
    s.takeUpTo (n + 1) = (s.takeRead p x rest).takeUpTo n := by
  simp only [State.takeUpTo, hmay, hnext, hlist, if_true]

/-! ## One take (R28, R44, R45, R52) -/

theorem State.removeRead_clock (s : State) (p : Port) (rest : List IntakeRead) :
    (s.removeRead p rest).clock = s.clock := (State.creditCheck_takes _ p).clock

theorem State.removeRead_align (s : State) (p : Port) (rest : List IntakeRead) :
    (s.removeRead p rest).align = s.align := (State.creditCheck_takes _ p).align

/-- A read of a port with a point, taken while the clock runs, is held. -/
theorem State.takeRead_of_held {x : IntakeRead} {rest : List IntakeRead} {q : Point}
    (hpoint : s.registry.ports[p].point = some q) (hrun : s.clock.state = .running) :
    s.takeRead p x rest = (s.removeRead p rest).withHeld (some (holdRead (s.removeRead p rest) p q x)) := by
  have runs : (s.removeRead p rest).clockRuns = true :=
    (State.clockRuns_iff _).mpr (by rw [State.removeRead_clock]; exact hrun)
  have point : (s.removeRead p rest).registry.ports[p].point = some q := by rw [State.removeRead_registry]; exact hpoint
  unfold State.removeRead at runs point ⊢
  simp only [State.takeRead, point, runs, if_true]

/-- A read of a port without a point, or taken while the clock is STOPPED, is dropped and its credit returned. -/
theorem State.takeRead_of_dropped {x : IntakeRead} {rest : List IntakeRead}
    (h : s.registry.ports[p].point = none ∨ s.clock.state = .stopped) :
    s.takeRead p x rest = ((s.removeRead p rest).count .readDropped p).returnCredit p := by
  rcases h with hnone | hstopped
  · have point : (s.removeRead p rest).registry.ports[p].point = none := by rw [State.removeRead_registry]; exact hnone
    unfold State.removeRead at point ⊢
    simp only [State.takeRead, point]
  · have runs : (s.removeRead p rest).clockRuns = false := by
      rw [State.clockRuns, State.removeRead_clock, hstopped]; rfl
    unfold State.removeRead at runs ⊢
    simp only [State.takeRead, runs]
    split <;> rfl

/-- What a held read keeps of the read it was and of the moment of its take (R52). -/
theorem holdRead_of_kept {t : State} (q : Point) (x : IntakeRead) (hclock : t.clock = s.clock) (halign : t.align = s.align)
    (hports : t.registry.ports = s.registry.ports) : holdRead t p q x = {
      chip := x.chip, dtime := x.dtime, level := x.level, arrival := x.arrival, port := p, takeTime := s.clock.value
      point := q, time := (s.convert p x).1, estimated := (s.convert p x).2, standing := .asTaken } := by
  have convert : t.convert p x = s.convert p x := by simp only [State.convert, halign, hports]
  simp only [holdRead, convert, State.now, hclock]

theorem State.convert_of_unsynced (h : s.align[p].sync ≠ .synced) (x : IntakeRead) :
    s.convert p x = (x.arrival - s.registry.ports[p].allowance, true) := by
  simp only [State.convert]
  cases hsync : s.align[p].sync with
  | synced => exact absurd hsync h
  | unsynced => rfl
  | stale => rfl

theorem State.convert_of_synced {n : SyncRecord} (hsync : s.align[p].sync = .synced)
    (hnew : s.align[p].history.getLast? = some n) (x : IntakeRead) :
    s.convert p x = (convertTime n s.align[p].rate x.dtime, false) := by
  have newest : s.align[p].newest = some n := hnew
  simp only [State.convert, hsync, newest]

end

theorem State.mayTake_eq_true {s : State} (hfree : s.passage.held = none) (hstart : s.startUp = false)
    (hready : s.registry.state = .ready) : s.mayTake = true := by
  simp [State.mayTake, State.resetting, hfree, hstart, hready]

/-- The next read of the rotation is taken, and the takes that may follow it are those of the reads left. -/
theorem State.takeReads_of_next {s : State} {p : Port} {x : IntakeRead} {rest : List IntakeRead} (hmay : s.mayTake = true)
    (hlist : s.intake[p].list = x :: rest)
    (hempty : ∀ i : Fin 12, i < p - (s.passage.lastServed + 1) → s.intake[s.passage.lastServed + 1 + i].list = []) :
    s.takeReads = (s.takeRead p x rest).takeUpTo (s.removeRead p rest).waitingReads := by
  rw [State.takeReads, ← State.waitingReads_removeRead hlist]
  exact State.takeUpTo_succ hmay (State.nextPort_eq (by rw [hlist]; exact List.cons_ne_nil _ _) hempty) hlist _

/-- Settles O19. -/
theorem takesServeInRotation : Obligations.TakesServeInRotation := by
  refine ⟨fun s h => ?_, fun s p x rest hfree hstart hready hlist hempty => ⟨fun q hpoint hrun => ?_, fun hdrop => ?_⟩,
    fun s p x => ⟨fun hsync => State.convert_of_unsynced hsync x, fun n hsync hnew => ?_⟩⟩
  · by_cases hmay : s.mayTake = true
    · have lists : ∀ p : Port, s.intake[p].list = [] := by
        rcases h with h | h | h | h
        · simp [State.mayTake, Option.isNone_eq_false_iff.mpr h] at hmay
        · simp [State.mayTake, h] at hmay
        · simp [State.mayTake, State.resetting, h] at hmay
        · exact h
      cases hn : s.waitingReads with
      | zero => rw [State.takeReads, hn]; rfl
      | succ n => simp only [State.takeReads, hn, State.takeUpTo, hmay, State.nextPort_eq_none lists, if_true]
    · exact State.takeUpTo_of_busy (by simpa using hmay) _
  · rw [State.takeReads_of_next (State.mayTake_eq_true hfree hstart hready) hlist hempty,
      State.takeRead_of_held hpoint hrun, State.takeUpTo_of_busy rfl]
    rw [holdRead_of_kept (s := s) q x (s.removeRead_clock p rest) (s.removeRead_align p rest)
      (congrArg Registry.ports (s.removeRead_registry p rest))]
    rfl
  · rw [State.takeReads_of_next (State.mayTake_eq_true hfree hstart hready) hlist hempty,
      State.takeRead_of_dropped hdrop, State.takeReads, State.waitingReads_returnCredit,
      State.waitingReads_of_intake (State.count_frame _ _ _).intake]
    rfl
  · obtain ⟨near, away⟩ := roundHalfAway_nearest ((x.dtime - n.dtime).toInt * s.align[p].rate) (d := 1000000) (by decide)
    exact ⟨_, near, away, State.convert_of_synced hsync hnew x⟩

/-! ## Deadlines and discarded frames -/

/-- A reached deadline satisfies the guard of its event. -/
theorem deadline_reached {o : Option Nat} {dl now : Nat} (h : o = some dl) (hle : dl ≤ now) :
    (o.any fun d => decide (d ≤ now)) = true := by
  rw [h]
  exact decide_eq_true hle

/-- Settles O22. -/
theorem silenceAndStaleDeadlines : Obligations.SilenceAndStaleDeadlines := by
  refine ⟨fun s p dl hup htimer hle => ?_, fun s k dl hup htimer hle => ?_, fun s p dl hrun hsync hstale hle => ?_⟩
  · have guard : (s.intake[p].link == .up && s.intake[p].timer.any fun d => decide (d ≤ s.elapsed)) = true := by
      rw [deadline_reached htimer hle, hup]; rfl
    exact congrArg Host.Outcome.next (if_pos guard)
  · have guard : (s.screens[k].link == .up && s.screens[k].timer.any fun d => decide (d ≤ s.elapsed)) = true := by
      rw [deadline_reached htimer hle, hup]; rfl
    exact congrArg Host.Outcome.next (if_pos guard)
  · have guard : (s.clockRuns && s.align[p].sync == .synced && s.align[p].staleDeadline.any fun d => decide (d ≤ s.now)) =
        true := by
      rw [(State.clockRuns_iff s).mpr hrun, hsync, deadline_reached (now := s.now) hstale hle]; rfl
    exact congrArg Host.Outcome.next (if_pos guard)

/-- Settles O23. -/
theorem discardedFramesCountOnMats : Obligations.DiscardedFramesCountOnMats :=
  ⟨fun _ _ => ⟨rfl, rfl⟩, fun _ _ => ⟨rfl, rfl⟩, fun _ _ => ⟨rfl, rfl⟩⟩

end Sys2Proof.Machine

/-! READ_COMPLETION (4.1 to 4.3). -/

namespace Sys2Proof.Machine

set_option Elab.async false

section
variable {s : State} {h : HeldRead}

theorem exec_readCompletion_of_held (hheld : s.passage.held = some h) : exec .readCompletion s =
    .next (((((s.finishRead h).withHeld none).returnCredit h.port).closeTouched h).takeReads) := by
  simp only [exec, execReadCompletion, hheld]

theorem State.closeTouched_of_not_taken (hstanding : h.standing ≠ .asTaken) : s.closeTouched h = s := if_neg (by simpa using hstanding)

/-- The passage that a read AS TAKEN touched closes when the running clock has reached its deadline (R53, R54). -/
theorem State.closeTouched_of_passage {x : Passage} (hstanding : h.standing = .asTaken)
    (hx : s.passageOf h.port h.chip = some x) : s.closeTouched h =
    if s.clock.state = .running ∧ x.deadline s.registry.limits ≤ s.clock.value then s.closePassage h.port x else s := by
  have guard : (s.clockRuns && decide (x.deadline s.registry.limits ≤ s.now)) = true ↔
      s.clock.state = .running ∧ x.deadline s.registry.limits ≤ s.clock.value := by
    rw [Bool.and_eq_true, State.clockRuns_iff, decide_eq_true_iff]; rfl
  rw [State.closeTouched, hstanding, hx]
  exact (if_pos rfl).trans (if_congr guard rfl rfl)

theorem State.handOnRead_of_discarded
    (hnone : s.registry.ports[h.port].point = none ∨ s.registry.course[h.point] = none) : s.handOnRead h = s := by
  refine if_neg fun both => ?_
  rw [Bool.and_eq_true] at both
  rcases hnone with hnone | hnone
  · rw [hnone] at both; exact nomatch both.1
  · rw [hnone] at both; exact nomatch both.2

/-- READ_COMPLETION of a read AS TAKEN, whose handling leaves the passage `y` it touched in the state `u` (R53). -/
theorem exec_readCompletion_of_taken {u : State} {y : Passage} (hheld : s.passage.held = some h)
    (hstanding : h.standing = .asTaken) (happly : s.applyRead h = u) (hy : u.passageOf h.port h.chip = some y)
    (hclock : u.clock = s.clock) (hlimits : u.registry.limits = s.registry.limits) :
    let t := (u.withHeld none).returnCredit h.port
    exec .readCompletion s = .next (if s.clock.state = .running ∧ y.deadline s.registry.limits ≤ s.clock.value then
      t.closePassage h.port y else t).takeReads := by
  have kept := State.returnCredit_takes (u.withHeld none) h.port
  have finished : s.finishRead h = u := by rw [← happly, State.finishRead, hstanding]
  have touched : ((u.withHeld none).returnCredit h.port).passageOf h.port h.chip = some y := by
    rw [State.passageOf, kept.lists]
    exact hy
  have clock : ((u.withHeld none).returnCredit h.port).clock = s.clock := kept.clock.trans hclock
  have limits : ((u.withHeld none).returnCredit h.port).registry.limits = s.registry.limits :=
    (congrArg Registry.limits kept.registry).trans hlimits
  rw [exec_readCompletion_of_held hheld, finished, State.closeTouched_of_passage hstanding touched, clock, limits]

/-- READ_COMPLETION of a read that touches no passage (R53). -/
theorem exec_readCompletion_of_not_taken (hheld : s.passage.held = some h) (hstanding : h.standing ≠ .asTaken) :
    exec .readCompletion s = .next (((s.finishRead h).withHeld none).returnCredit h.port).takeReads := by
  rw [exec_readCompletion_of_held hheld, State.closeTouched_of_not_taken hstanding]

/-! ## The passage list of a read AS TAKEN (R56, R57, R58) -/

theorem Passage.apply_eq (x : Passage) (h : HeldRead) :
    let earlier := decide (h.time < x.firstTime)
    let stronger := decide (x.peakLevel < h.level ∨ x.peakLevel = h.level ∧ h.time < x.peakTime)
    x.apply h = { x with
      firstTime := if earlier then h.time else x.firstTime
      firstEstimated := if earlier then h.estimated else x.firstEstimated
      peakTime := if stronger then h.time else x.peakTime
      peakLevel := if stronger then h.level else x.peakLevel
      peakEstimated := if stronger then h.estimated else x.peakEstimated
      lastTaken := h.takeTime } := by
  simp [Passage.apply]

/-- The list after a read joined the passage `x` of its chip: `x` alone changes, since no other passage has its chip. -/
theorem map_apply_eq {l : List Passage} {x : Passage} (hx : (l.find? fun y => y.chip == h.chip) = some x)
    (hnodup : (chipsOf l).Nodup) :
    (l.map fun z => if z.chip == h.chip then z.apply h else z) = l.map fun z => if z.chip = h.chip then x.apply h else z := by
  have found : x ∈ l := List.mem_of_find?_eq_some hx
  have chip : x.chip = h.chip := by simpa using List.find?_some hx
  refine List.map_congr_left fun z hz => ?_
  by_cases hchip : z.chip = h.chip
  · have same : z = x := List.inj_on_of_nodup_map hnodup hz found (hchip.trans chip.symm)
    simp [same, chip]
  · simp [hchip]

theorem find?_map_apply {l : List Passage} {x : Passage} (hx : (l.find? fun y => y.chip == h.chip) = some x) :
    ((l.map fun z => if z.chip == h.chip then z.apply h else z).find? fun y => y.chip == h.chip) = some (x.apply h) := by
  have chip : x.chip = h.chip := by simpa using List.find?_some hx
  have same : ((fun y : Passage => y.chip == h.chip) ∘ fun z => if z.chip == h.chip then z.apply h else z) =
      fun y => y.chip == h.chip := by
    funext z
    simp only [Function.comp]
    split
    · rfl
    · rfl
  rw [List.find?_map, same, hx]
  simp [chip]

theorem find?_concat_opened {l : List Passage} (hx : (l.find? fun y => y.chip == h.chip) = none) :
    ((l ++ [Passage.opened h]).find? fun y => y.chip == h.chip) = some (Passage.opened h) := by
  rw [List.find?_append, hx]
  simp [Passage.opened]

end

/-- Settles O24. -/
theorem readCompletionHandlesRead : Obligations.ReadCompletionHandlesRead := by
  intro s h hheld
  refine ⟨fun hvoid => ?_, fun hreset hnone => ?_, fun hreset hpoint hcourse => ?_, fun htaken x hx => ?_,
    fun htaken hnone => ⟨fun hroom => ?_, fun z rest hlist hfull => ?_⟩⟩
  · rw [exec_readCompletion_of_not_taken hheld (by rw [hvoid]; decide), State.finishRead, hvoid]
  · rw [exec_readCompletion_of_not_taken hheld (by rw [hreset]; decide), State.finishRead, hreset]
    simp only [State.handOnRead_of_discarded hnone]
  · rw [exec_readCompletion_of_not_taken hheld (by rw [hreset]; decide), State.finishRead, hreset]
    simp only [State.handOnRead, hpoint, hcourse, Bool.and_self, if_true]
  · intro earlier stronger y hnodup
    have apply_eq : x.apply h = y := x.apply_eq h
    have applied : s.applyRead h = s.withPassages h.port
        (s.passage.lists[h.port].map fun z => if z.chip == h.chip then z.apply h else z) := by
      have found : s.passageOf h.port h.chip = some x := hx
      simp only [State.applyRead, found]
    rw [map_apply_eq hx hnodup, apply_eq] at applied
    refine exec_readCompletion_of_taken hheld htaken applied ?_ rfl rfl
    rw [State.passageOf, State.withPassages_same, ← apply_eq, ← map_apply_eq hx hnodup]
    exact find?_map_apply hx
  · have applied : s.applyRead h = s.withPassages h.port (s.passage.lists[h.port] ++ [Passage.opened h]) := by
      have absent : s.passageOf h.port h.chip = none := hnone
      simp only [State.applyRead, absent]
      exact if_pos hroom
    refine exec_readCompletion_of_taken (y := Passage.opened h) hheld htaken applied ?_ rfl rfl
    rw [State.passageOf, State.withPassages_same]
    exact find?_concat_opened hnone
  · intro u t
    have forced := (State.closeCrossing_records (s.withPassages h.port rest) h.port z).trans
      (State.count_marks _ .passageForced h.port).toRecordsOnly
    have lists : u.passage.lists[h.port] = rest := by
      rw [forced.passage, State.withPassages_same]
    have applied : s.applyRead h = u.withPassages h.port (rest ++ [Passage.opened h]) := by
      have absent : s.passageOf h.port h.chip = none := hnone
      have forces : s.forceOldest h.port = u := by simp only [State.forceOldest, hlist]; rfl
      simp only [State.applyRead, absent]
      rw [if_neg (not_lt.mpr hfull), forces, State.openPassage, lists]
    have absent : (rest.find? fun y => y.chip == h.chip) = none := by
      rw [hlist, List.find?_cons] at hnone
      split at hnone
      · exact nomatch hnone
      · exact hnone
    refine exec_readCompletion_of_taken (y := Passage.opened h) hheld htaken applied ?_ forced.clock forced.limits
    rw [State.passageOf, State.withPassages_same]
    exact find?_concat_opened absent

end Sys2Proof.Machine

/-! The commands of the Control Unit and the queries (8.5, 9.7, 10.3 to 10.5). -/

namespace Sys2Proof.Machine

set_option Elab.async false

section
variable {s : State}

/-- A command that its own rule answers with data. -/
theorem exec_of_answer {i : Instr} {l : Side} {tag : Byte} {r : Result} {data : Answer} {t : State}
    (hsender : sender i = some (l, tag)) (hready : s.ready l) (htoken : isOpen i = true ∨ s.control.token = .held l)
    (h : ownHandling i (s.hearControl l) = .answer r data t) : exec i s = .next (t.respond l tag r data) := by
  rw [exec_of_ready hsender hready htoken, h]; rfl

/-- ATTN is high exactly while a pending condition is not masked (R169). -/
theorem State.attn_iff (s : State) (l : Side) :
    s.attn l = true ↔ ∃ c ∈ (s.controlLink l).pending, c ∉ (s.controlLink l).mask := by
  simp only [State.attn, ControlLink.attn, Bool.not_eq_true', List.isEmpty_eq_false_iff_exists_mem, CondSet.mem_minus]

theorem State.hearControl_pending (s : State) (l : Side) :
    ((s.hearControl l).controlLink l).pending = (s.controlLink l).pending := by rw [State.hearControl_controlLink]

theorem State.hearControl_mask (s : State) (l : Side) :
    ((s.hearControl l).controlLink l).mask = (s.controlLink l).mask := by rw [State.hearControl_controlLink]

/-- An update of the link that has just been heard. -/
theorem State.hearControl_withLink (s : State) (l : Side) (x : ControlLink) :
    (s.hearControl l).withLink l x = s.withLink l x := by rw [State.hearControl_eq, State.withLink_withLink]

end

/-- Settles O39. -/
theorem conditionCommands : Obligations.ConditionCommands := by
  refine ⟨fun s l tag conds h hconds => ⟨?_, ?_⟩, fun s l tag conds h hout => ⟨?_, ?_⟩, fun s l tag h => ?_, State.attn_iff,
    fun s l tag h => exec_of_refused (i := .unknownKind l tag) rfl h (.inl rfl) rfl⟩
  · obtain ⟨given, read, mem, _⟩ := condSetOf_some hconds
    refine ⟨CondSet.minus (s.controlLink l).pending given, fun c => ?_, List.filter_sublist, ?_⟩
    · rw [CondSet.mem_minus, mem]
    · refine exec_of_ok (i := .ackConditions l tag conds) rfl h (.inl rfl) ?_
      simp only [ownHandling, ackConditions, read, State.hearControl_withLink, State.hearControl_controlLink]
  · obtain ⟨given, read, mem, sub⟩ := condSetOf_some hconds
    refine ⟨given, mem, sub, ?_⟩
    refine exec_of_ok (i := .setMask l tag conds) rfl h (.inl rfl) ?_
    simp only [ownHandling, setMask, read, State.hearControl_withLink, State.hearControl_controlLink]
  · refine exec_of_refused (i := .ackConditions l tag conds) rfl h (.inl rfl) ?_
    simp only [ownHandling, ackConditions, condSetOf_none hout]
  · refine exec_of_refused (i := .setMask l tag conds) rfl h (.inl rfl) ?_
    simp only [ownHandling, setMask, condSetOf_none hout]
  · refine exec_of_answer (i := .readConditions l tag) rfl h (.inl rfl) ?_
    simp only [ownHandling, readConditions, State.attn, ControlLink.attn, State.hearControl_pending, State.hearControl_mask]

/-- Settles O40. -/
theorem watchCommands : Obligations.WatchCommands := by
  have fits : ∀ {bibs : List Half}, bibs.length ≤ 16 → 0 ∉ bibs →
      ¬ (Config.watchListSize < bibs.length ∨ bibs.contains 0 = true) := fun hlen hzero => by
    rw [List.contains_iff_mem]
    exact not_or.mpr ⟨not_lt.mpr hlen, hzero⟩
  refine ⟨fun s l tag bibs h => ⟨fun hlen hzero hnodup => ?_, fun hout => ?_, fun hlen hzero htwice => ?_⟩,
    fun s l tag n h => ⟨fun hlow hhigh => ?_, fun hout => ?_⟩⟩
  · refine exec_of_ok (i := .setWatch l tag bibs) rfl h.1 (.inr h.2) ?_
    rw [ownHandling, setWatch, if_neg (fits hlen hzero), (allDistinct_iff bibs).mpr hnodup]
    rfl
  · refine exec_of_refused (i := .setWatch l tag bibs) rfl h.1 (.inr h.2) (if_pos ?_)
    rwa [List.contains_iff_mem]
  · have distinct : allDistinct bibs = false := by rw [← Bool.not_eq_true, allDistinct_iff]; exact htwice
    refine exec_of_refused (i := .setWatch l tag bibs) rfl h.1 (.inr h.2) ?_
    rw [ownHandling, setWatch, if_neg (fits hlen hzero), distinct]
    rfl
  · refine exec_of_answer (i := .readWatchLog l tag n) rfl h (.inl rfl) ?_
    rw [ownHandling, readWatchLog, if_pos ⟨hlow, hhigh⟩]
    cases l <;> rfl
  · refine exec_of_refused (i := .readWatchLog l tag n) rfl h (.inl rfl) (if_neg ?_)
    omega

/-- Settles O41. -/
theorem queriesOnlyAnswer : Obligations.QueriesOnlyAnswer := by
  intro s l tag h
  refine ⟨?_, ?_, fun port p hp => ?_, fun port hp => ?_, fun screen k hk => ?_, fun screen hk => ?_, ?_, fun start hs => ?_,
    fun start hs => ?_, fun bib r hready hbib hr => ?_, fun hready => ?_, fun bib hready hbib hr => ?_⟩
  · exact exec_of_answer (i := .status l tag) rfl h (.inl rfl) rfl
  · exact exec_of_answer (i := .readTallies l tag) rfl h (.inl rfl) rfl
  · refine exec_of_answer (i := .readPort l tag port) rfl h (.inl rfl) ?_
    simp only [ownHandling, readPort, portOf, indexOf_some hp]
    rfl
  · refine exec_of_refused (i := .readPort l tag port) rfl h (.inl rfl) ?_
    simp only [ownHandling, readPort, portOf, indexOf_none (n := 12) hp]
  · refine exec_of_answer (i := .readScreen l tag screen) rfl h (.inl rfl) ?_
    simp only [ownHandling, readScreen, screenOf, indexOf_some hk]
    rfl
  · refine exec_of_refused (i := .readScreen l tag screen) rfl h (.inl rfl) ?_
    simp only [ownHandling, readScreen, screenOf, indexOf_none (n := 8) hk]
  · exact exec_of_answer (i := .readParkList l tag none) rfl h (.inl rfl) rfl
  · exact exec_of_answer (i := .readParkList l tag (some start)) rfl h (.inl rfl) (if_pos hs)
  · exact exec_of_refused (i := .readParkList l tag (some start)) rfl h (.inl rfl) (if_neg (not_le.mpr hs))
  · refine exec_of_answer (i := .readRunner l tag bib) rfl h (.inl rfl) ?_
    have found : (s.hearControl l).runner bib = some r := hr
    simp only [ownHandling, readRunner, State.unlessResetting_ready hready, hbib, if_false, found]
    rfl
  · refine exec_of_refused (i := .readRunner l tag 0) rfl h (.inl rfl) ?_
    simp only [ownHandling, readRunner, State.unlessResetting_ready hready, if_true]
  · refine exec_of_refused (i := .readRunner l tag bib) rfl h (.inl rfl) ?_
    have absent : (s.hearControl l).runner bib = none := hr
    simp only [ownHandling, readRunner, State.unlessResetting_ready hready, hbib, if_false, absent]

end Sys2Proof.Machine

/-! Tallies, marks, the Settings Store and RESTART (10.3, chapter 11, 12.2, 12.4). -/

namespace Sys2Proof.Machine

set_option Elab.async false

/-! ## The operands of SET TALLY (R176) -/

/-- Numbers below the bound are read as the set of those numbers, in rising order. -/
theorem numbersBelow_some {n : Nat} {bs : List Byte} (h : ∀ b ∈ bs, b.toNat < n) :
    ∃ set, numbersBelow n bs = some set ∧ (∀ k, k ∈ set ↔ ∃ b ∈ bs, b.toNat = k) ∧ set.Pairwise (· < ·) := by
  refine ⟨_, if_pos (by simpa using h), fun k => ?_, List.pairwise_lt_range.filter _⟩
  simp only [List.mem_filter, List.mem_range, List.any_eq_true, beq_iff_eq]
  exact ⟨And.right, fun ⟨b, hb, e⟩ => ⟨e ▸ h b hb, b, hb, e⟩⟩

theorem numbersBelow_none {n : Nat} {bs : List Byte} (h : ∃ b ∈ bs, n ≤ b.toNat) : numbersBelow n bs = none := by
  refine if_neg ?_
  simpa using h

theorem limitFits_iff (limit : Option Word32) : limitFits limit = true ↔ limit ≠ some 0 := by
  cases limit <;> simp [limitFits]

/-- Settles O50. -/
theorem tallyCommands : Obligations.TallyCommands := by
  intro s l tag h
  refine ⟨fun tally cls qualifiers limit stop i c htally hcls hquals hlimit => ?_,
    fun tally cls qualifiers limit stop hout => ?_, ?_, fun conds hconds => ?_, fun conds hout => ?_, ?_, ?_⟩
  · obtain ⟨set, read, mem, rising⟩ := numbersBelow_some hquals
    refine ⟨set, mem, rising, ?_⟩
    refine exec_of_ok (i := .setTally l tag tally cls qualifiers limit stop) rfl h.1 (.inr h.2) ?_
    have fits : limitFits limit = true := (limitFits_iff limit).mpr hlimit
    simp only [ownHandling, setTally, tallyOf, indexOf_some htally, classOf, hcls, read, fits, if_true]
    rfl
  · refine exec_of_refused (i := .setTally l tag tally cls qualifiers limit stop) rfl h.1 (.inr h.2) ?_
    simp only [ownHandling, setTally]
    rcases hout with htally | hcls | hlimit | ⟨c, hcls, hqual⟩
    · rw [tallyOf, indexOf_none (n := 8) htally]
    · have absent : classOf cls = none := List.getElem?_eq_none hcls
      rw [absent]
      cases tallyOf tally <;> rfl
    · have fits : limitFits limit = false := by rw [hlimit]; rfl
      split
      · split <;> simp [fits]
      · rfl
    · have read : classOf cls = some c := hcls
      rw [read]
      split
      · rename_i hc
        obtain rfl := Option.some.inj hc
        rw [numbersBelow_none hqual]
      · rfl
  · exact exec_of_ok (i := .freeze l tag none) rfl h.1 (.inr h.2) rfl
  · obtain ⟨triggers, read, mem, sub⟩ := condSetOf_some hconds
    refine ⟨triggers, mem, sub, ?_⟩
    refine exec_of_ok (i := .freeze l tag (some conds)) rfl h.1 (.inr h.2) ?_
    simp only [ownHandling, freezeTallies, read]
    rfl
  · refine exec_of_refused (i := .freeze l tag (some conds)) rfl h.1 (.inr h.2) ?_
    simp only [ownHandling, freezeTallies, condSetOf_none hout]
  · exact exec_of_ok (i := .thaw l tag) rfl h.1 (.inr h.2) rfl
  · exact ⟨_, fun i => Vector.getElem_ofFn _, exec_of_ok (i := .clearTallies l tag) rfl h.1 (.inr h.2) rfl⟩

/-- Settles O52. -/
theorem storeCycleAndRestart : Obligations.StoreCycleAndRestart := by
  refine ⟨fun s l tag h => ⟨fun hidle => ⟨s.settings, rfl, rfl, rfl, fun k => Vector.getElem_ofFn _, ?_⟩, fun hbusy => ?_, ?_⟩,
    fun s herase => congrArg Host.Outcome.next (if_pos herase), fun s w hwrite hsnapshot => ?_⟩
  · exact exec_of_ok (i := .store l tag) rfl h.1 (.inr h.2) (if_pos hidle)
  · exact exec_of_refused (i := .store l tag) rfl h.1 (.inr h.2) (if_neg hbusy)
  · exact exec_of_ok (i := .restart l tag) rfl h.1 (.inr h.2) rfl
  · rw [← hsnapshot]
    exact congrArg Host.Outcome.next (if_pos hwrite)

/-! ## Counting one event (R177, R178) -/

/-- A tally takes an event of its class whose qualifier it names, or any when it names none (R177). -/
theorem Tally.takes_iff (t : Tally) {c : TallyClass} (hc : c ≠ .none) (q : Nat) :
    t.takes c q = true ↔ t.cls = c ∧ (t.qualifiers = [] ∨ q ∈ t.qualifiers) := by
  simp only [Tally.takes, Bool.and_eq_true, Bool.or_eq_true, beq_iff_eq, bne_iff_ne, List.isEmpty_iff, List.contains_iff_mem]
  exact ⟨fun ⟨⟨_, hcls⟩, hq⟩ => ⟨hcls, hq⟩, fun ⟨hcls, hq⟩ => ⟨⟨hcls ▸ hc, hcls⟩, hq⟩⟩

theorem Tally.reaches_iff (t : Tally) {c : TallyClass} (hc : c ≠ .none) (q : Nat) : t.reaches c q = true ↔
    (t.cls = c ∧ (t.qualifiers = [] ∨ q ∈ t.qualifiers)) ∧ t.limit = some (t.value + 1) := by
  rw [Tally.reaches, Bool.and_eq_true, Tally.takes_iff t hc, beq_iff_eq]

/-- What the counting of one event by a unit that is not frozen comes to (R177, R178). -/
theorem State.count_of_thawed {s : State} (h : s.tally.frozen = false) (c : TallyClass) (q : Nat) : s.count c q =
    let counted := s.withTally { s.tally with tallies := Vector.ofFn fun i : Fin 8 => s.tally.tallies[i].bump c q }
    let limited := counted.raiseIf (s.tally.tallies.toList.any fun t => t.reaches c q) .tallyLimit
    if s.tally.tallies.toList.any fun t => t.reaches c q && t.stop then
      limited.withTally { limited.tally with frozen := true }
    else limited := if_neg (by rw [h]; decide)

/-- Some tally of the unit satisfies a test. -/
theorem any_tallies_iff (v : Vector Tally 8) (f : Tally → Bool) :
    v.toList.any f = true ↔ ∃ i : Fin 8, f v[i] = true := by
  rw [List.any_eq_true]
  exact exists_mem_toList v fun t => f t = true

theorem State.countTimes_eq_iterate (c : TallyClass) (q n : Nat) (s : State) :
    s.countTimes c q n = (fun t : State => t.count c q)^[n] s := by
  induction n generalizing s with
  | zero => rfl
  | succ n ih => rw [State.countTimes, ih, Function.iterate_succ_apply]

/-- Settles O51. -/
theorem eventsAndConditionsAreMarked : Obligations.EventsAndConditionsAreMarked := by
  refine ⟨fun s c q hfrozen => if_pos hfrozen, fun s c q tallies hthawed hc => ?_, fun s c => ?_,
    fun s c => ⟨⟨_, fun d => CondSet.mem_add _ c d, s.raiseTo_eq .a c⟩, ⟨_, fun d => CondSet.mem_add _ c d, s.raiseTo_eq .b c⟩,
      rfl, rfl⟩, fun s c q n => State.countTimes_eq_iterate c q n s⟩
  · intro hit reached htallies
    have bumped : (Vector.ofFn fun i : Fin 8 => s.tally.tallies[i].bump c q) = tallies := by
      refine Vector.ext fun i hi => ?_
      rw [Vector.getElem_ofFn]
      by_cases h : hit ⟨i, hi⟩
      · exact (if_pos ((Tally.takes_iff _ hc q).mpr h)).trans ((htallies ⟨i, hi⟩).1 h).symm
      · exact (if_neg fun takes => h ((Tally.takes_iff _ hc q).mp takes)).trans ((htallies ⟨i, hi⟩).2 h).symm
    have any_reaches : (s.tally.tallies.toList.any fun t => t.reaches c q) = true ↔ ∃ i, reached i := by
      rw [any_tallies_iff]
      exact exists_congr fun i => Tally.reaches_iff _ hc q
    have any_stops : (s.tally.tallies.toList.any fun t => t.reaches c q && t.stop) = true ↔
        ∃ i, reached i ∧ s.tally.tallies[i].stop = true := by
      rw [any_tallies_iff]
      exact exists_congr fun i => by rw [Bool.and_eq_true, Tally.reaches_iff _ hc q]
    rw [State.count_of_thawed hthawed, bumped]
    refine ⟨fun hno => ?_, fun hsome hgo => ?_, fun ⟨i, hi, hstop⟩ => ?_⟩
    · have none_reach : (s.tally.tallies.toList.any fun t => t.reaches c q) = false := by
        rw [← Bool.not_eq_true, any_reaches]; exact not_exists.mpr hno
      have none_stop : ¬ (s.tally.tallies.toList.any fun t => t.reaches c q && t.stop) = true := by
        rw [any_stops]; exact fun ⟨i, hi, _⟩ => hno i hi
      simp only [none_reach, none_stop]
      rfl
    · have none_stop : ¬ (s.tally.tallies.toList.any fun t => t.reaches c q && t.stop) = true := by
        rw [any_stops]; exact fun ⟨i, hi, hstop⟩ => nomatch (hgo i hi).symm.trans hstop
      simp only [any_reaches.mpr hsome, none_stop]
      rfl
    · simp only [any_reaches.mpr ⟨i, hi⟩, any_stops.mpr ⟨i, hi, hstop⟩, if_true]
      rfl
  · exact ⟨_, _, fun d => CondSet.mem_add _ c d, fun d => CondSet.mem_add _ c d, s.raise_eq c⟩

end Sys2Proof.Machine

/-! SET POINT, CLEAR POINT, SET PORT and SET LIMITS (5.1 to 5.3). -/

namespace Sys2Proof.Machine

set_option Elab.async false

/-! ## The course (R69, R70) -/

/-- A distance keeps the order of the course when it lies between those of the neighbours, over configured points
(R69). -/
theorem distanceFits_iff (course : Course) (p : Point) (d : Nat) : distanceFits course p d = true ↔
    (∀ q : Point, q < p → course[q].isSome = true) ∧ (p.val = 0 → d = 0) ∧
      (∀ q : Point, ∀ x, q.val + 1 = p.val → course[q] = some x → x.distance < d) ∧
      (∀ q : Point, ∀ x, q.val = p.val + 1 → course[q] = some x → d < x.distance) := by
  have upper : ((upperDistance course p).all fun e => decide (d < e)) = true ↔
      ∀ q : Point, ∀ x, q.val = p.val + 1 → course[q] = some x → d < x.distance := by
    simp only [Option.all_eq_true, decide_eq_true_eq, upperDistance_eq_some]
    exact ⟨fun h q x hq hx => h _ ⟨q, hq, x, hx, rfl⟩, fun h e ⟨q, hq, x, hx, he⟩ => he ▸ h q x hq hx⟩
  unfold distanceFits
  rw [Bool.and_eq_true, upper]
  by_cases hzero : p.val = 0
  · have noLower : ∀ q : Point, ¬ q < p := fun q hq => by have := Fin.lt_def.mp hq; omega
    have noNext : ∀ q : Point, q.val + 1 ≠ p.val := fun q => by omega
    simp [hzero, noLower]
  · have lower : (lowerConfigured course p && (lowerDistance course p).any fun e => decide (e < d)) = true ↔
        (∀ q : Point, q < p → course[q].isSome = true) ∧
          ∀ q : Point, ∀ x, q.val + 1 = p.val → course[q] = some x → x.distance < d := by
      rw [Bool.and_eq_true, lowerConfigured_iff, Option.any_eq_true]
      refine and_congr_right fun hall => ⟨fun ⟨e, he, hlt⟩ q x hq hx => ?_, fun h => ?_⟩
      · obtain ⟨r, hr, y, hy, rfl⟩ := (lowerDistance_eq_some course p e).mp he
        obtain rfl : r = q := Fin.ext (by omega)
        obtain rfl := Option.some.inj (hy.symm.trans hx)
        exact decide_eq_true_iff.mp hlt
      · obtain ⟨q, hq⟩ : ∃ q : Point, q.val + 1 = p.val := ⟨⟨p.val - 1, by omega⟩, by simp; omega⟩
        obtain ⟨x, hx⟩ := Option.isSome_iff_exists.mp (hall q (Fin.lt_def.mpr (by omega)))
        exact ⟨x.distance, (lowerDistance_eq_some course p _).mpr ⟨q, hq, x, hx, rfl⟩, decide_eq_true (h q x hq hx)⟩
    rw [if_neg hzero, lower]
    tauto

/-- SET POINT over operands in their ranges (R69). -/
theorem setPoint_of_operands {s : State} {point policy : Byte} {distance : Half} {p : Point}
    (hready : s.registry.state = .ready) (hp : point.toNat = p.val) (hd : distance.toNat ≤ 60000) (hpol : policy.toNat ≤ 1)
    (display : Bool) : setPoint point distance policy display s =
    if s.clock.locked then .refuse .locked
    else if distanceFits s.registry.course p distance.toNat then
      .ok (s.withRegistry { s.registry with
        course := s.registry.course.set p (some {
          distance := distance.toNat, policy := if policy.toNat = 0 then .first else .peak, display }) })
    else .refuse .range := by
  simp only [setPoint, State.unlessResetting_of_ready hready, pointOf, indexOf_some hp, halfIn_some (Nat.zero_le _) hd,
    policyOf_some hpol]

theorem setPoint_of_out_of_range {s : State} {point policy : Byte} {distance : Half}
    (hready : s.registry.state = .ready) (h : 9 < point.toNat ∨ 60000 < distance.toNat ∨ 1 < policy.toNat)
    (display : Bool) : setPoint point distance policy display s = .refuse .range := by
  rw [setPoint, State.unlessResetting_of_ready hready]
  rcases h with h | h | h
  · rw [pointOf, indexOf_none (n := 10) h]
  · rw [halfIn_none (.inr h)]
    split <;> simp_all
  · rw [policyOf_none h]
    split <;> simp_all

/-- A point is in use when a port feeds it or a runner has a crossing there (R70). -/
theorem State.pointInUse_iff (s : State) (p : Point) : s.pointInUse p = true ↔
    (∃ x : Port, s.registry.ports[x].point = some p) ∨ ∃ r ∈ s.registry.runners, r.crossings[p].isSome = true := by
  rw [State.pointInUse, Bool.or_eq_true, List.any_eq_true, List.any_eq_true,
    exists_mem_toList s.registry.ports fun x => (x.point == some p) = true]
  simp only [beq_iff_eq]

/-- An entry without its crossing at `p`, which goes when it has no other (R70). -/
theorem ParkEntry.dropPoint_eq (p : Point) : ParkEntry.dropPoint p = fun e : ParkEntry =>
    if ∃ q : Point, q ≠ p ∧ e.crossings[q].isSome = true then some { e with crossings := e.crossings.set p none }
    else none := by
  funext e
  refine if_congr ?_ rfl rfl
  rw [List.any_eq_true, exists_mem_toList (e.crossings.set p none) fun x => x.isSome = true]
  refine exists_congr fun q => ?_
  by_cases hq : q = p
  · subst hq
    simp
  · have other : (e.crossings.set p none)[q] = e.crossings[q] := Vector.getElem_set_ne _ _ fun eq => hq (Fin.ext eq.symm)
    simp [other, hq, -Fin.getElem_fin]

/-- A configured point may be cleared when it is the finish and nothing stands at it (R70). -/
theorem State.clearable_iff (s : State) (p : Point) : ¬ (s.registry.course.finish ≠ some p ∨ s.pointInUse p = true) ↔
    s.registry.course[p].isSome = true ∧ (∀ q : Point, p < q → s.registry.course[q] = none) ∧
      (∀ x : Port, s.registry.ports[x].point ≠ some p) ∧ ∀ r ∈ s.registry.runners, r.crossings[p] = none := by
  rw [not_or, ne_eq, not_not, Course.finish_eq_some, State.pointInUse_iff, not_or, and_assoc]
  simp only [not_exists, not_and, Bool.not_eq_true, Option.isSome_eq_false_iff, Option.isNone_iff_eq_none, ne_eq]

/-- CLEAR POINT of the point `p` (R70). -/
theorem clearPoint_of_point {s : State} {point : Byte} {p : Point} (hready : s.registry.state = .ready)
    (hp : point.toNat = p.val) : clearPoint point s =
    if s.clock.locked then .refuse .locked
    else if s.registry.course.finish ≠ some p ∨ s.pointInUse p then .refuse .state
    else .ok ((s.withRegistry { s.registry with
      course := s.registry.course.set p none, counters := s.registry.counters.set p 0 }).withPark
        (s.park.filterMap (ParkEntry.dropPoint p))) := by
  simp only [clearPoint, State.unlessResetting_of_ready hready, pointOf, indexOf_some hp]

/-- Settles O42. -/
theorem courseCommands : Obligations.CourseCommands := by
  refine ⟨fun s l tag point distance policy display h => ⟨fun hout => ?_, fun p hp hd hpol => ?_⟩,
    fun s l tag point h => ⟨fun hout => ?_, fun p hp => ?_⟩⟩
  · exact exec_of_refused (i := .setPoint l tag point distance policy display) rfl h.1.1 (.inr h.1.2)
      (setPoint_of_out_of_range (s := s.hearControl l) h.2 hout display)
  · intro fits
    have handled := setPoint_of_operands (s := s.hearControl l) h.2 hp hd hpol display
    refine ⟨fun hlocked => ?_, fun hopen hfits => ?_, fun hopen hno => ?_⟩
    · exact exec_of_refused (i := .setPoint l tag point distance policy display) rfl h.1.1 (.inr h.1.2)
        (handled.trans (if_pos hlocked))
    · refine exec_of_ok (i := .setPoint l tag point distance policy display) rfl h.1.1 (.inr h.1.2)
        (handled.trans ((if_neg (ne_true_of_eq_false hopen)).trans (if_pos ?_)))
      exact (distanceFits_iff _ _ _).mpr hfits
    · refine exec_of_refused (i := .setPoint l tag point distance policy display) rfl h.1.1 (.inr h.1.2)
        (handled.trans ((if_neg (ne_true_of_eq_false hopen)).trans (if_neg ?_)))
      exact fun k => hno ((distanceFits_iff _ _ _).mp k)
  · refine exec_of_refused (i := .clearPoint l tag point) rfl h.1.1 (.inr h.1.2) ?_
    simp only [ownHandling, clearPoint, State.unlessResetting_ready h.2, pointOf, indexOf_none (n := 10) hout]
  · intro free
    have handled := clearPoint_of_point (s := s.hearControl l) h.2 hp
    refine ⟨fun hlocked => ?_, fun hopen hfree => ?_, fun hopen hno => ?_⟩
    · exact exec_of_refused (i := .clearPoint l tag point) rfl h.1.1 (.inr h.1.2) (handled.trans (if_pos hlocked))
    · refine exec_of_ok (i := .clearPoint l tag point) rfl h.1.1 (.inr h.1.2)
        (handled.trans ((if_neg (ne_true_of_eq_false hopen)).trans ((if_neg ?_).trans ?_)))
      · exact (State.clearable_iff (s.hearControl l) p).mpr hfree
      · rw [ParkEntry.dropPoint_eq]; rfl
    · refine exec_of_refused (i := .clearPoint l tag point) rfl h.1.1 (.inr h.1.2)
        (handled.trans ((if_neg (ne_true_of_eq_false hopen)).trans (if_pos ?_)))
      exact not_not.mp fun k => hno ((State.clearable_iff (s.hearControl l) p).mp k)

/-! ## SET PORT (R61, R62, R72, R73) -/

/-- SET PORT gives a held read of the port that is AS TAKEN the standing PORT RESET (R62). -/
theorem State.resetHeld_eq (s : State) (p : Port) : s.resetHeld p = s.withHeld (s.passage.held.map fun h =>
    if h.port = p ∧ h.standing = .asTaken then { h with standing := .portReset } else h) := by
  unfold State.resetHeld
  cases hheld : s.passage.held with
  | none =>
    have same : s = s.withHeld none := by rw [← hheld]; rfl
    exact same
  | some h =>
    by_cases hmine : h.port = p ∧ h.standing = .asTaken
    · have test : (h.port == p && h.standing == .asTaken) = true := by simpa using hmine
      simp only [test, if_true, Option.map_some, if_pos hmine]
    · have test : (h.port == p && h.standing == .asTaken) = false := by simpa using hmine
      have same : s = s.withHeld (some h) := by rw [← hheld]; rfl
      simp only [test, Bool.false_eq_true, if_false, Option.map_some, if_neg hmine]
      exact same

/-- The assignment of a port over the state its passages left (R61, R62, R73). -/
theorem State.assignPort_eq (s : State) (p : Port) (point : Option Point) (a : Nat) : s.assignPort p point a =
    let u := s.clearPassages p point.isNone
    { u with
      passage := { u.passage with held := s.passage.held.map fun h =>
        if h.port = p ∧ h.standing = .asTaken then { h with standing := .portReset } else h }
      registry := { u.registry with ports := s.registry.ports.set p { point, allowance := a } } } := by
  have kept : (s.clearPassages p point.isNone).passage.held = s.passage.held ∧
      (s.clearPassages p point.isNone).registry.ports = s.registry.ports := by
    unfold State.clearPassages
    simp only
    split
    · exact ⟨rfl, rfl⟩
    · have closed := State.closeAll_records (s.withPassages p []) p s.passage.lists[p]
      exact ⟨by rw [closed.passage]; rfl, closed.ports⟩
  rw [State.assignPort, State.resetHeld_eq, kept.1, State.withHeld_registry, kept.2]
  rfl

theorem optPointOf_none {point : Option Byte} (h : ∃ b ∈ point, 9 < b.toNat) : optPointOf point = none := by
  obtain ⟨b, hb, hout⟩ := h
  obtain rfl : point = some b := hb
  simp only [optPointOf, pointOf, indexOf_none (n := 10) hout, Option.map_none]

theorem setPort_of_out_of_range {s : State} {port : Byte} {point : Option Byte} {allowance : Option Half}
    (hready : s.registry.state = .ready)
    (h : 11 < port.toNat ∨ (∃ b ∈ point, 9 < b.toNat) ∨ ∃ v ∈ allowance, 2000 < v.toNat) :
    setPort port point allowance s = .refuse .range := by
  rw [setPort, State.unlessResetting_of_ready hready]
  rcases h with h | h | ⟨v, hv, hout⟩
  · rw [portOf, indexOf_none (n := 12) h]
  · rw [optPointOf_none h]
    split <;> simp_all
  · split
    · rw [optHalfIn_none ⟨v, hv, .inr hout⟩]
    · rfl

/-- SET PORT over operands in their ranges (R72). -/
theorem setPort_of_operands {s : State} {port : Byte} {point : Option Byte} {allowance : Option Half} {p : Port}
    {q : Option Point} (hready : s.registry.state = .ready) (hp : port.toNat = p.val)
    (hq : optPointOf point = some q) (ha : ∀ v ∈ allowance, v.toNat ≤ 2000) : setPort port point allowance s =
    if q.any fun x => s.registry.course[x].isNone then .refuse .state
    else if q.any fun x => decide (Config.portsPerPoint ≤ s.otherFeeds p x) then .refuse .full
    else .ok (s.assignPort p q ((allowance.map fun v => v.toNat).getD s.registry.ports[p].allowance)) := by
  simp only [setPort, State.unlessResetting_of_ready hready, portOf, indexOf_some hp, hq,
    optHalfIn_some (lo := 0) (hi := 2000) fun v hv => ⟨Nat.zero_le _, ha v hv⟩]

/-- Settles O43. -/
theorem setPortAssigns : Obligations.SetPortAssigns := by
  intro s l tag port allowance h
  refine ⟨fun point hout => ?_, fun p a hp ha hvalue => ⟨?_, fun b q hq => ?_⟩⟩
  · exact exec_of_refused (i := .setPort l tag port point allowance) rfl h.1.1 (.inr h.1.2)
      (setPort_of_out_of_range (s := s.hearControl l) h.2 hout)
  · refine exec_of_ok (i := .setPort l tag port none allowance) rfl h.1.1 (.inr h.1.2)
      ((setPort_of_operands (s := s.hearControl l) (q := none) h.2 hp rfl ha).trans ?_)
    subst hvalue
    simp only [Option.any_none, Bool.false_eq_true, if_false, State.assignPort_eq]
    rfl
  · have handled := setPort_of_operands (s := s.hearControl l) (point := some b) (q := some q) h.2 hp
      (by simp only [optPointOf, pointOf, indexOf_some hq, Option.map_some]) ha
    have feeds : (s.hearControl l).otherFeeds p q =
        ((List.finRange 12).filter fun x : Port => x != p && s.registry.ports[x].point == some q).length :=
      List.countP_eq_length_filter
    have configured : s.registry.course[q].isSome = true →
        ¬ (some q).any (fun x => (s.hearControl l).registry.course[x].isNone) = true := fun hsome k =>
      nomatch (Option.isNone_iff_eq_none.mp k ▸ hsome : (none : Option CoursePoint).isSome = true)
    refine ⟨fun hnone => ?_, fun hsome hfull => ?_, fun hsome hroom => ?_⟩
    · refine exec_of_refused (i := .setPort l tag port (some b) allowance) rfl h.1.1 (.inr h.1.2)
        (handled.trans (if_pos ?_))
      exact Option.isNone_iff_eq_none.mpr hnone
    · refine exec_of_refused (i := .setPort l tag port (some b) allowance) rfl h.1.1 (.inr h.1.2)
        (handled.trans ((if_neg ?_).trans (if_pos ?_)))
      · exact configured hsome
      · exact decide_eq_true (feeds ▸ hfull)
    · refine exec_of_ok (i := .setPort l tag port (some b) allowance) rfl h.1.1 (.inr h.1.2)
        (handled.trans ((if_neg ?_).trans ((if_neg ?_).trans ?_)))
      · exact configured hsome
      · exact fun k => absurd (of_decide_eq_true k) (feeds ▸ not_le.mpr hroom)
      · subst hvalue
        rw [State.assignPort_eq]
        rfl

/-! ## SET LIMITS (R43, R61, R74) -/

theorem optHalfIn_given {lo hi d n : Nat} {v : Option Half} (h : optHalfIn lo hi d v = some n) :
    ∀ x ∈ v, lo ≤ x.toNat ∧ x.toNat ≤ hi := by
  rintro x rfl
  have read : halfIn lo hi x = some n := h
  obtain rfl : x.toNat = n := by
    unfold halfIn at read
    split at read
    · exact Option.some.inj read
    · exact nomatch read
  exact halfIn_bounds read

/-- Limits that are read lie in their ranges (R74). -/
theorem limitsOf_given {a : LimitsArgs} {old m : Limits} (h : limitsOf a old = some m) :
    (∀ v ∈ a.minPace, 100 ≤ v.toNat ∧ v.toNat ≤ 400) ∧ (∀ v ∈ a.confirmWindow, 1000 ≤ v.toNat ∧ v.toNat ≤ 60000) ∧
      (∀ v ∈ a.dwellGap, 200 ≤ v.toNat ∧ v.toNat ≤ 5000) ∧ (∀ v ∈ a.maxDwell, 5000 ≤ v.toNat ∧ v.toNat ≤ 60000) ∧
      (∀ v ∈ a.projectionFloor, 1000 ≤ v.toNat ∧ v.toNat ≤ 40000) ∧
      (∀ v ∈ a.staleHorizon, 2000 ≤ v.toNat ∧ v.toNat ≤ 30000) := by
  simp only [limitsOf, Option.bind_eq_bind, Option.bind_eq_some_iff] at h
  obtain ⟨_, h1, _, h2, _, h3, _, h4, _, h5, _, h6, _⟩ := h
  exact ⟨optHalfIn_given h1, optHalfIn_given h2, optHalfIn_given h3, optHalfIn_given h4, optHalfIn_given h5, optHalfIn_given h6⟩

/-- The state after SET LIMITS, with its three tests the other way round. -/
theorem State.applyLimits_eq (s : State) (m : Limits) : s.applyLimits m =
    let u : State := { s with registry := { s.registry with limits := m } }
    let v := if m.dwellGap = s.registry.limits.dwellGap ∧ m.maxDwell = s.registry.limits.maxDwell then u
      else (List.finRange 12).foldl (fun x p => x.closeOverdue p) u
    if m.staleHorizon = s.registry.limits.staleHorizon then v else (List.finRange 12).foldl (fun x p => x.moveStale p) v := by
  simp only [State.applyLimits, ne_eq, ← not_and_or, ite_not]
  rfl

theorem State.moveStale_of_unsynced {s : State} {p : Port} (h : s.align[p].sync ≠ .synced) : s.moveStale p = s := by
  simp only [State.moveStale]
  cases hsync : s.align[p].sync with
  | synced => exact absurd hsync h
  | unsynced => rfl
  | stale => rfl

theorem State.moveStale_of_synced {s : State} {p : Port} {n : SyncRecord} (hsync : s.align[p].sync = .synced)
    (hnew : s.align[p].history.getLast? = some n) : s.moveStale p =
    let dl := min (n.pulse + s.registry.limits.staleHorizon) 4294967295
    if dl ≤ s.clock.value then s.goStale p else s.withAlign p { s.align[p] with staleDeadline := some dl } := by
  have newest : s.align[p].newest = some n := hnew
  simp only [State.moveStale, hsync, newest]
  rfl

/-- Settles O44. -/
theorem setLimitsApplies : Obligations.SetLimitsApplies := by
  refine ⟨fun s l tag a h => ⟨fun ⟨h1, h2, h3, h4, h5, h6⟩ => ?_, fun hout => ?_⟩, fun s p => rfl,
    fun s p => ⟨State.moveStale_of_unsynced, fun n hsync hnew => ⟨fun hlater => ?_, fun hreached => ?_⟩⟩⟩
  · refine exec_of_ok (i := .setLimits l tag a) rfl h.1.1 (.inr h.1.2) ?_
    simp only [ownHandling, setLimits, State.unlessResetting_ready h.2, limitsOf_some h1 h2 h3 h4 h5 h6, State.applyLimits_eq]
    rfl
  · refine exec_of_refused (i := .setLimits l tag a) rfl h.1.1 (.inr h.1.2) ?_
    have unread : limitsOf a (s.hearControl l).registry.limits = none :=
      Option.eq_none_iff_forall_ne_some.mpr fun m hm => hout (limitsOf_given hm)
    simp only [ownHandling, setLimits, State.unlessResetting_ready h.2, unread]
  · rw [State.moveStale_of_synced hsync hnew]
    exact if_neg (not_le.mpr hlater)
  · rw [State.moveStale_of_synced hsync hnew]
    exact if_pos hreached

end Sys2Proof.Machine

/-! REGISTER, REMOVE, SET NAME, BIND and DISCARD (5.4, 8.3, 8.4). -/

namespace Sys2Proof.Machine

set_option Elab.async false

/-! ## The sorted tables -/

/-- An insertion before the first element that is not before the new one splits the list there. -/
theorem insert_split {α : Type} {before : α → Prop} [DecidablePred before] {new : α} {ins : List α → List α}
    (hnil : ins [] = [new]) (hcons : ∀ x rest, ins (x :: rest) = if before x then x :: ins rest else new :: x :: rest)
    (l : List α) : ∃ front back, l = front ++ back ∧ ins l = front ++ new :: back ∧ (∀ x ∈ front, before x) ∧
      ∀ x ∈ back.head?, ¬ before x := by
  induction l with
  | nil => exact ⟨[], [], rfl, hnil, nofun, nofun⟩
  | cons x rest ih =>
    by_cases hlt : before x
    · obtain ⟨front, back, hsplit, hinsert, hfront, hback⟩ := ih
      refine ⟨x :: front, back, by rw [hsplit]; rfl, ?_, List.forall_mem_cons.mpr ⟨hlt, hfront⟩, hback⟩
      rw [hcons, if_pos hlt, hinsert]
      rfl
    · refine ⟨[], x :: rest, rfl, (hcons x rest).trans (if_neg hlt), nofun, fun y hy => ?_⟩
      obtain rfl := Option.some.inj hy
      exact hlt

theorem insertRunner_split (r : Runner) (runners : List Runner) : ∃ front back, runners = front ++ back ∧
    insertRunner r runners = front ++ r :: back ∧ (∀ x ∈ front, x.bib < r.bib) ∧ ∀ x ∈ back.head?, r.bib ≤ x.bib := by
  obtain ⟨front, back, hsplit, hinsert, hfront, hback⟩ := insert_split (before := fun x : Runner => x.bib < r.bib)
    (ins := insertRunner r) rfl (fun _ _ => rfl) runners
  exact ⟨front, back, hsplit, hinsert, hfront, fun x hx => BitVec.not_lt.mp (hback x hx)⟩

theorem insertChip_split (chip : Word32) (bib : Half) (chips : List (Word32 × Half)) : ∃ front back, chips = front ++ back ∧
    insertChip chip bib chips = front ++ (chip, bib) :: back ∧ (∀ x ∈ front, x.1 < chip) ∧
    ∀ x ∈ back.head?, chip ≤ x.1 := by
  obtain ⟨front, back, hsplit, hinsert, hfront, hback⟩ := insert_split (before := fun x : Word32 × Half => x.1 < chip)
    (ins := insertChip chip bib) rfl (fun _ _ => rfl) chips
  exact ⟨front, back, hsplit, hinsert, hfront, fun x hx => BitVec.not_lt.mp (hback x hx)⟩

/-! ## Parked crossings (R78, R131, R132) -/

/-- What is parked under a chip leaves the Park List and is replayed (R78, R131). -/
theorem State.unparkAndReplay_parked (s : State) (chip : Word32) : s.unparkAndReplay (s.parked chip) =
    match s.park.find? fun e => e.chip == chip with
    | none => s
    | some e => ({ s with park := s.park.filter fun y => y.chip != chip }).replay e := by
  unfold State.parked
  cases hfind : s.park.find? fun e => e.chip == chip with
  | none => rfl
  | some e =>
    obtain rfl : e.chip = chip := by simpa using List.find?_some hfind
    rfl

/-! ## REGISTER (R77, R78) -/

theorem registerInRange_iff (bib : Half) (chips : List Word32) (name : Option Name) :
    registerInRange bib chips name = true ↔ bib ≠ 0 ∧ chips.length ≤ 2 ∧ 0 ∉ chips ∧
      ∀ n ∈ name, n.length ≤ 12 ∧ ∀ c ∈ n, 0x20 ≤ c.toNat ∧ c.toNat ≤ 0x7E := by
  rw [← optNameFits_iff]
  simp [registerInRange, Config.chipsPerRunner, and_assoc]

section
variable {s : State} {bib : Half} {wave : Byte} {w : Wave} {chips : List Word32} {name : Option Name}

theorem registerRunner_of_out_of_range (hready : s.registry.state = .ready)
    (h : 15 < wave.toNat ∨ registerInRange bib chips name = false) :
    registerRunner bib wave chips name s = .refuse .range := by
  rw [registerRunner, State.unlessResetting_of_ready hready]
  rcases h with h | h
  · rw [waveOf, indexOf_none (n := 16) h]
  · split
    · rfl
    · rw [h]; rfl

/-- REGISTER with arguments in their ranges (R77, R78). -/
theorem registerRunner_of_in_range (hready : s.registry.state = .ready) (hw : wave.toNat = w.val)
    (hrange : registerInRange bib chips name = true) : registerRunner bib wave chips name s =
    if !allDistinct chips then .refuse .duplicate
    else if (s.runner bib).isSome then .refuse .duplicate
    else if Config.runnerTableSize ≤ s.registry.runners.length then .refuse .full
    else if chips.any s.chipMapped then .refuse .duplicate
    else .ok (chips.foldl (fun t chip => t.unparkAndReplay (t.parked chip)) (chips.foldl (fun t chip => t.mapChip chip bib)
      (s.withRegistry { s.registry with runners := insertRunner (Runner.make bib w chips name) s.registry.runners }))) := by
  simp only [registerRunner, State.unlessResetting_of_ready hready, waveOf, indexOf_some hw, hrange, Bool.not_true,
    Bool.false_eq_true, if_false]

theorem State.runner_isSome_iff : (s.runner bib).isSome = true ↔ ∃ r ∈ s.registry.runners, r.bib = bib := by
  rw [State.runner, List.find?_isSome]
  simp only [beq_iff_eq]

theorem State.any_chipMapped_iff : chips.any s.chipMapped = true ↔ ∃ chip ∈ chips, (s.bibOf chip).isSome = true :=
  List.any_eq_true

end

/-- Settles O45. -/
theorem registerAddsRunner : Obligations.RegisterAddsRunner := by
  refine ⟨fun s l tag bib wave chips name h => ?_, insertRunner_split, insertChip_split⟩
  intro t inRange
  have reads : inRange → ∃ w : Wave, wave.toNat = w.val ∧ registerInRange bib chips name = true :=
    fun ⟨hbib, hwave, hrest⟩ => ⟨⟨wave.toNat, by omega⟩, rfl, (registerInRange_iff bib chips name).mpr ⟨hbib, hrest⟩⟩
  have refused : ∀ r, registerRunner bib wave chips name (s.hearControl l) = .refuse r →
      exec (.register l tag bib wave chips name) s = .next (t.respond l tag r .nothing) := fun r hr =>
    exec_of_refused (i := .register l tag bib wave chips name) rfl h.1.1 (.inr h.1.2) hr
  have table : (t.runner bib).isSome = true ↔ ∃ r ∈ s.registry.runners, r.bib = bib := State.runner_isSome_iff
  have mapped : chips.any t.chipMapped = true ↔ ∃ chip ∈ chips, (s.bibOf chip).isSome = true := State.any_chipMapped_iff
  have distinct : (!allDistinct chips) = true ↔ ¬ chips.Nodup := by rw [Bool.not_eq_true', ← Bool.not_eq_true, allDistinct_iff]
  refine ⟨fun hout => ?_, fun hin htwice => ?_, fun hin hold => ?_, fun hin hnodup hnew hfull => ?_,
    fun hin hnew hroom hchip => ?_, fun w hw hin hnodup hnew hroom hchips => ?_⟩
  · refine refused _ (registerRunner_of_out_of_range (s := t) h.2 ?_)
    by_cases hwave : wave.toNat ≤ 15
    · refine .inr (Bool.eq_false_iff.mpr fun hrange => hout ?_)
      obtain ⟨hbib, hrest⟩ := (registerInRange_iff bib chips name).mp hrange
      exact ⟨hbib, hwave, hrest⟩
    · exact .inl (not_le.mp hwave)
  · obtain ⟨w, hw, hrange⟩ := reads hin
    exact refused _ ((registerRunner_of_in_range (s := t) h.2 hw hrange).trans (if_pos (distinct.mpr htwice)))
  · obtain ⟨w, hw, hrange⟩ := reads hin
    refine refused _ ((registerRunner_of_in_range (s := t) h.2 hw hrange).trans ?_)
    rw [if_pos (table.mpr hold), ite_self]
  · obtain ⟨w, hw, hrange⟩ := reads hin
    have absent : ¬ (t.runner bib).isSome = true := fun k => let ⟨r, hr, e⟩ := table.mp k; hnew r hr e
    refine refused _ ((registerRunner_of_in_range (s := t) h.2 hw hrange).trans ?_)
    rw [if_neg fun k => distinct.mp k hnodup, if_neg absent]
    exact if_pos hfull
  · obtain ⟨w, hw, hrange⟩ := reads hin
    have absent : ¬ (t.runner bib).isSome = true := fun k => let ⟨r, hr, e⟩ := table.mp k; hnew r hr e
    refine refused _ ((registerRunner_of_in_range (s := t) h.2 hw hrange).trans ?_)
    have room : ¬ Config.runnerTableSize ≤ t.registry.runners.length := not_le.mpr hroom
    rw [if_neg absent, if_neg room, if_pos (mapped.mpr hchip), ite_self]
  · obtain ⟨hbib, -, hrest⟩ := hin
    have hrange := (registerInRange_iff bib chips name).mpr ⟨hbib, hrest⟩
    have absent : ¬ (t.runner bib).isSome = true := fun k => let ⟨r, hr, e⟩ := table.mp k; hnew r hr e
    have room : ¬ Config.runnerTableSize ≤ t.registry.runners.length := not_le.mpr hroom
    have unmapped : ¬ chips.any t.chipMapped = true := fun k => by
      obtain ⟨chip, hchip, hsome⟩ := mapped.mp k
      rw [hchips chip hchip] at hsome
      exact nomatch hsome
    refine exec_of_ok (i := .register l tag bib wave chips name) rfl h.1.1 (.inr h.1.2)
      ((registerRunner_of_in_range (s := t) h.2 hw hrange).trans ?_)
    rw [if_neg fun k => distinct.mp k hnodup, if_neg absent, if_neg room, if_neg unmapped, State.mapChips_eq]
    simp only [State.unparkAndReplay_parked]
    rfl

/-! ## REMOVE and SET NAME (R79, R80) -/

/-- A written record stands in place of the one with its bib. -/
theorem State.putRunner_eq (s : State) {x : Runner} {bib : Half} (h : x.bib = bib) : s.putRunner x =
    { s with registry := { s.registry with
      runners := s.registry.runners.map fun y => if y.bib = bib then x else y } } := by
  subst h
  simp only [State.putRunner, beq_iff_eq]
  rfl

/-- Settles O46. -/
theorem removeAndSetName : Obligations.RemoveAndSetName := by
  intro s l tag bib name h t fits
  have remove_refused : ∀ {r}, removeRunner bib (s.hearControl l) = .refuse r →
      exec (.remove l tag bib) s = .next (t.respond l tag r .nothing) :=
    exec_of_refused (i := .remove l tag bib) rfl h.1.1 (.inr h.1.2)
  have setName_refused : ∀ {r}, setName bib name (s.hearControl l) = .refuse r →
      exec (.setName l tag bib name) s = .next (t.respond l tag r .nothing) :=
    exec_of_refused (i := .setName l tag bib name) rfl h.1.1 (.inr h.1.2)
  have named : fits → ∀ hbib : bib ≠ 0, ¬ (bib = 0 ∨ (!optNameFits name) = true) := fun hfits hbib => by
    rw [(optNameFits_iff name).mpr hfits]
    exact not_or.mpr ⟨hbib, by decide⟩
  refine ⟨fun hzero => remove_refused ?_, fun hout => setName_refused ?_, fun hbib hnone => remove_refused ?_,
    fun hbib hfits hnone => setName_refused ?_, fun r hbib hr => ⟨fun hstands => remove_refused ?_, fun hstatus hfree => ?_,
      fun hfits => ?_⟩⟩
  · rw [removeRunner, State.unlessResetting_ready h.2, if_pos hzero]
  · rw [setName, State.unlessResetting_ready h.2, if_pos]
    rwa [Bool.not_eq_true', ← Bool.not_eq_true, optNameFits_iff]
  · have absent : (s.hearControl l).runner bib = none := hnone
    rw [removeRunner, State.unlessResetting_ready h.2, if_neg hbib, absent]
  · have absent : (s.hearControl l).runner bib = none := hnone
    rw [setName, State.unlessResetting_ready h.2, if_neg (named hfits hbib), absent]
  · have found : (s.hearControl l).runner bib = some r := hr
    rw [removeRunner, State.unlessResetting_ready h.2, if_neg hbib, found]
    refine if_pos ?_
    rwa [Runner.holdsCrossing_iff]
  · have found : (s.hearControl l).runner bib = some r := hr
    refine exec_of_ok (i := .remove l tag bib) rfl h.1.1 (.inr h.1.2) ?_
    have free : ¬ (r.status ≠ .registered ∨ r.holdsCrossing = true) := by
      rw [Runner.holdsCrossing_iff]
      rintro (hne | ⟨p, hp⟩)
      · exact hne hstatus
      · rw [hfree p] at hp; exact nomatch hp
    rw [ownHandling, removeRunner, State.unlessResetting_ready h.2, if_neg hbib, found]
    exact if_neg free
  · have found : (s.hearControl l).runner bib = some r := hr
    refine exec_of_ok (i := .setName l tag bib name) rfl h.1.1 (.inr h.1.2) ?_
    rw [ownHandling, setName, State.unlessResetting_ready h.2, if_neg (named hfits hbib), found]
    have same : r.bib = bib := State.runner_bib hr
    exact congrArg Verdict.ok (State.putRunner_eq (s.hearControl l) (x := { r with name }) same)

/-! ## BIND and DISCARD (R130 to R133) -/

/-- The parked crossings of an entry are handed on in rising point order (R132). -/
theorem State.replay_eq (s : State) (e : ParkEntry) : s.replay e = (List.finRange 10).foldl (fun u p =>
    match e.crossings[p] with
    | none => u
    | some x => u.takeCrossing
      { chip := e.chip, point := p, source := x.source, time := x.time, estimated := x.estimated } true) s := by
  rw [State.replay, ParkEntry.incoming, List.foldl_filterMap]
  congr 1
  funext u p
  cases e.crossings[p] <;> rfl

/-- BIND of a chip and a runner that may be joined (R130, R131). -/
theorem bindChip_of_found {s : State} {chip : Word32} {bib : Half} {r : Runner} (hready : s.registry.state = .ready)
    (hchip : chip ≠ 0) (hbib : bib ≠ 0) (hr : s.runner bib = some r) : bindChip chip bib s =
    if 2 ≤ r.chips.length then .refuse .full
    else if s.chipMapped chip then .refuse .duplicate
    else .ok ((s.joinChip r chip).unparkAndReplay (s.parked chip)) := by
  rw [bindChip, State.unlessResetting_of_ready hready, if_neg (not_or.mpr ⟨hchip, hbib⟩), hr]

theorem State.joinChip_eq (s : State) {r : Runner} {bib : Half} (h : r.bib = bib) (chip : Word32) : s.joinChip r chip =
    { s with registry := { s.registry with
      runners := s.registry.runners.map fun x => if x.bib = bib then { r with chips := r.chips ++ [chip] } else x
      chipMap := insertChip chip bib s.registry.chipMap } } := by
  rw [State.joinChip, State.putRunner_eq s (x := { r with chips := r.chips ++ [chip] }) h, h]
  rfl

theorem State.parked_eq_none {s : State} {chip : Word32} (h : ∀ e ∈ s.park, e.chip ≠ chip) : s.parked chip = none := by
  rw [State.parked, List.find?_eq_none]
  simpa using h

/-- Settles O49. -/
theorem bindAndDiscard : Obligations.BindAndDiscard := by
  refine ⟨fun s l tag chip bib h => ⟨fun hout => ?_, fun hchip hbib hnone => ?_, fun r hchip hbib hr => ?_⟩, State.replay_eq,
    fun s l tag chip h => ⟨fun hzero => ?_, fun hchip hnone => ?_, fun hchip hsome => ?_⟩⟩
  · refine exec_of_refused (i := .bind l tag chip bib) rfl h.1.1 (.inr h.1.2) ?_
    rw [ownHandling, bindChip, State.unlessResetting_ready h.2, if_pos hout]
  · refine exec_of_refused (i := .bind l tag chip bib) rfl h.1.1 (.inr h.1.2) ?_
    have absent : (s.hearControl l).runner bib = none := hnone
    rw [ownHandling, bindChip, State.unlessResetting_ready h.2, if_neg (not_or.mpr ⟨hchip, hbib⟩), absent]
  · have handled := bindChip_of_found (s := s.hearControl l) (r := r) h.2 hchip hbib hr
    rw [State.joinChip_eq _ (State.runner_bib hr)] at handled
    intro u
    refine ⟨fun hfull => ?_, fun hroom hmapped => ?_, fun hroom hnew hnone => ?_, fun hroom hnew e he => ?_⟩
    · exact exec_of_refused (i := .bind l tag chip bib) rfl h.1.1 (.inr h.1.2) (handled.trans (if_pos hfull))
    · exact exec_of_refused (i := .bind l tag chip bib) rfl h.1.1 (.inr h.1.2)
        (handled.trans ((if_neg (not_le.mpr hroom)).trans (if_pos hmapped)))
    all_goals
      have unmapped : ¬ (s.hearControl l).chipMapped chip = true :=
        ne_true_of_eq_false ((State.chipMapped_iff (s.hearControl l) chip).mpr hnew)
      refine exec_of_ok (i := .bind l tag chip bib) rfl h.1.1 (.inr h.1.2)
        (handled.trans ((if_neg (not_le.mpr hroom)).trans ((if_neg unmapped).trans ?_)))
    · rw [State.parked_eq_none (s := s.hearControl l) hnone]
      rfl
    · obtain rfl : e.chip = chip := by simpa using List.find?_some he
      rw [show (s.hearControl l).parked e.chip = some e from he]
      rfl
  · refine exec_of_refused (i := .discard l tag chip) rfl h.1.1 (.inr h.1.2) ?_
    rw [ownHandling, discardChip, State.unlessResetting_ready h.2, if_pos hzero]
  · refine exec_of_refused (i := .discard l tag chip) rfl h.1.1 (.inr h.1.2) ?_
    rw [ownHandling, discardChip, State.unlessResetting_ready h.2, if_neg hchip,
      State.parked_eq_none (s := s.hearControl l) hnone]
    rfl
  · refine exec_of_ok (i := .discard l tag chip) rfl h.1.1 (.inr h.1.2) ?_
    have parked : ¬ ((s.hearControl l).parked chip).isNone = true := by
      rw [Bool.not_eq_true, Option.isNone_eq_false_iff]
      exact State.parked_isSome_iff.mpr hsome
    rw [ownHandling, discardChip, State.unlessResetting_ready h.2, if_neg hchip, if_neg parked]
    rfl

end Sys2Proof.Machine

/-! The Display Scheduler: profiles, deadlines and the screen link (9.1, 9.3 to 9.5). -/

namespace Sys2Proof.Machine

set_option Elab.async false

section
variable {s : State} {k : ScreenNo}

/-! ## The line that a head takes (R145, R146) -/

theorem lineFor_of_free {x : DisplayItem} {lines : List (Option ShownItem)} {i : Nat} (h : lines[i]? = some none)
    (hlowest : ∀ j, j < i → lines[j]? ≠ some none) : lineFor x lines = some i := by
  rw [lineFor, freeLine_some h hlowest]

theorem lineFor_of_preempted {x : DisplayItem} {lines : List (Option ShownItem)} {i : Nat} {z : ShownItem}
    (hfull : ∀ y ∈ lines, y.isSome = true) (hx : x.priority = true) (hz : lines[i]? = some (some z))
    (hplain : z.item.priority = false)
    (hearliest : ∀ (j : Nat) (y : ShownItem), lines[j]? = some (some y) → y.item.priority = false →
      z.shownAt ≤ y.shownAt ∧ (j < i → z.shownAt < y.shownAt)) : lineFor x lines = some i := by
  rw [lineFor, freeLine_none hfull, hx]
  exact preemptLine_some hz hplain hearliest

theorem lineFor_of_none {x : DisplayItem} {lines : List (Option ShownItem)} (hfull : ∀ y ∈ lines, y.isSome = true)
    (h : x.priority = false ∨ ∀ y ∈ lines, ∀ z, y = some z → z.item.priority = true) : lineFor x lines = none := by
  rw [lineFor, freeLine_none hfull]
  rcases h with h | h
  · rw [h]; rfl
  · rw [preemptLine_none h]; exact ite_self none

/-- A head takes its line, and the item behind it is not yet due. -/
theorem considerHead_shows_one {prof : Profile} {now : Nat} {x : DisplayItem} {rest : List DisplayItem}
    {lines : List (Option ShownItem)} {i : Nat} (hdue : x.due ≤ now) (hfresh : now ≤ x.due + prof.stale)
    (hline : lineFor x lines = some i) (hrest : ∀ y ∈ rest.head?, now < y.due) : considerHead prof now (x :: rest) lines =
    { queue := rest, lines := lines.set i (some (showItem prof now x)), waiting := false, counts := [.itemShown]
      changed := true } := by
  rw [considerHead_shows rest hdue hfresh hline, considerHead_stop hrest]

/-! ## The two deadlines of a screen (R144, R148) -/

theorem exec_dueDeadline_of_due {x : DisplayItem} {rest : List DisplayItem} (hrun : s.clock.state = .running)
    (hwaiting : s.screens[k].waiting = false) (hqueue : s.screens[k].queue = x :: rest) (hdue : x.due ≤ s.clock.value) :
    exec (.dueDeadline k) s = .next (s.settleScreen k (s.screens[k].considered s.clock.value)) := by
  have guard : (s.clockRuns && !s.screens[k].waiting && s.screens[k].queue.head?.any fun y => decide (y.due ≤ s.now)) =
      true := by
    rw [(State.clockRuns_iff s).mpr hrun, hwaiting, hqueue]
    exact decide_eq_true hdue
  exact congrArg Host.Outcome.next (if_pos guard)

/-- A head that is not due leaves its deadline unreached. -/
theorem exec_dueDeadline_of_later (hlater : ∀ y ∈ s.screens[k].queue.head?, s.clock.value < y.due) :
    exec (.dueDeadline k) s = .next s := by
  have guard : (s.clockRuns && !s.screens[k].waiting && s.screens[k].queue.head?.any fun y => decide (y.due ≤ s.now)) =
      false := by
    rw [Bool.and_eq_false_iff]
    refine .inr ?_
    cases hhead : s.screens[k].queue.head? with
    | none => rfl
    | some y => exact decide_eq_false (not_le.mpr (hlater y hhead))
  exact congrArg Host.Outcome.next (if_neg (ne_true_of_eq_false guard))

theorem exec_lineExpiry_of_reached {i : Fin 4} {y : ShownItem} (hrun : s.clock.state = .running)
    (hy : s.screens[k].lines[i.val]? = some (some y)) (hexpiry : y.expiry ≤ s.clock.value) :
    exec (.lineExpiry k i) s = .next (s.settleScreen k (s.screens[k].expire s.clock.value i)) := by
  have guard : (s.clockRuns && (s.screens[k].lines[i.val]?.join).any fun y => decide (y.expiry ≤ s.now)) = true := by
    rw [(State.clockRuns_iff s).mpr hrun, hy]
    exact decide_eq_true hexpiry
  exact congrArg Host.Outcome.next (if_pos guard)

/-- What a due head that takes a line at its deadline leaves. -/
theorem exec_dueDeadline_of_shown {x : DisplayItem} {rest : List DisplayItem} {i : Nat} (hrun : s.clock.state = .running)
    (hwaiting : s.screens[k].waiting = false) (hqueue : s.screens[k].queue = x :: rest) (hdue : x.due ≤ s.clock.value)
    (hfresh : s.clock.value ≤ x.due + s.screens[k].profile.stale) (hline : lineFor x s.screens[k].lines = some i)
    (hrest : ∀ y ∈ rest.head?, s.clock.value < y.due) :
    exec (.dueDeadline k) s = .next (((s.withScreen k { s.screens[k] with
      queue := rest
      lines := s.screens[k].lines.set i (some (showItem s.screens[k].profile s.clock.value x)) }).count .itemShown
        k).riseSequence k) := by
  have head := considerHead_shows_one hdue hfresh hline hrest
  rw [← hqueue] at head
  rw [exec_dueDeadline_of_due hrun hwaiting hqueue hdue, State.settleScreen, Screen.considered]
  simp only [head, if_true, hwaiting]
  rfl

/-- What an expired line leaves when considering the head comes to `r`. -/
theorem exec_lineExpiry_of_head {i : Fin 4} {y : ShownItem} {r : HeadOutcome} (hrun : s.clock.state = .running)
    (hy : s.screens[k].lines[i.val]? = some (some y)) (hexpiry : y.expiry ≤ s.clock.value)
    (hhead : considerHead s.screens[k].profile s.clock.value s.screens[k].queue (s.screens[k].lines.set i.val none) = r) :
    exec (.lineExpiry k i) s = .next ((r.counts.foldl (fun u e => u.count e k) (s.withScreen k { s.screens[k] with
      queue := r.queue, lines := r.lines, waiting := r.waiting })).riseSequence k) := by
  rw [exec_lineExpiry_of_reached hrun hy hexpiry, State.settleScreen, Screen.expire]
  simp only [hhead, if_true]
  rfl

/-- An expired line is the lowest empty one when no lower line was empty. -/
theorem lineFor_of_expired {x : DisplayItem} {lines : List (Option ShownItem)} {i : Nat} {y : ShownItem}
    (hy : lines[i]? = some (some y)) (hlowest : ∀ j, j < i → lines[j]? ≠ some none) :
    lineFor x (lines.set i none) = some i := by
  obtain ⟨hi, -⟩ := List.getElem?_eq_some_iff.mp hy
  refine lineFor_of_free ?_ fun j hj => ?_
  · rw [List.getElem?_set_self hi]
  · rw [List.getElem?_set_ne (Nat.ne_of_gt hj)]
    exact hlowest j hj

end

/-- Settles O31. -/
theorem linesFillAndExpire : Obligations.LinesFillAndExpire := by
  refine ⟨fun s k x rest i hrun hwaiting hqueue hdue hfresh hfree hlowest hrest => ?_,
    fun s k i y hrun hy hexpiry hqueue => ?_, fun s k i y x rest hrun hy hexpiry hqueue hdue hfresh hlowest => ?_,
    fun s k i y hrun hy hexpiry => exec_lineExpiry_of_head hrun hy hexpiry rfl, fun prof now x rest lines => ?_,
    fun s k hheld => ?_, fun s k hheld => ?_⟩
  · exact exec_dueDeadline_of_shown hrun hwaiting hqueue hdue hfresh (lineFor_of_free hfree hlowest) hrest
  · exact exec_lineExpiry_of_head hrun hy hexpiry (considerHead_stop hqueue)
  · have line : lineFor x (s.screens[k].lines.set i.val none) = some i.val := lineFor_of_expired hy hlowest
    refine ⟨fun hrest => ?_, fun z hz hzdue hzfresh hplain hfull => ?_⟩
    · have head := considerHead_shows_one hdue hfresh line hrest
      rw [← hqueue, List.set_set] at head
      exact exec_lineExpiry_of_head hrun hy hexpiry head
    · obtain ⟨tail, rfl⟩ := List.head?_eq_some_iff.mp hz
      have full : ∀ w ∈ s.screens[k].lines.set i.val (some (showItem s.screens[k].profile s.clock.value x)),
          w.isSome = true := fun w hw => by
        rcases List.mem_or_eq_of_mem_set hw with hw | rfl
        · exact hfull w hw
        · rfl
      have head := considerHead_shows (z :: tail) hdue hfresh line
      rw [List.set_set, considerHead_waits tail hzdue hzfresh (lineFor_of_none full (.inl hplain)), ← hqueue] at head
      exact exec_lineExpiry_of_head hrun hy hexpiry head
  · intro shown due occupied
    refine ⟨rfl, fun hlater => if_pos hlater, considerHead_stale rest lines, fun i hdue hfree hlowest => ?_,
      fun i z hdue hfull hx hz hplain hearliest => ?_, fun hdue hfull h => ?_⟩
    · exact considerHead_shows rest hdue.1 hdue.2 (lineFor_of_free hfree hlowest)
    · exact considerHead_shows rest hdue.1 hdue.2 (lineFor_of_preempted hfull hx hz hplain hearliest)
    · exact considerHead_waits rest hdue.1 hdue.2 (lineFor_of_none hfull h)
  · have silent : ¬ s.screens[k].held.isSome = true := by rw [hheld]; decide
    exact if_neg silent
  · exact if_pos hheld

/-- The state in which a stale head has left the queue of screen `k` and is counted (R145). -/
def State.staleHeadGone (s : State) (k : ScreenNo) (rest : List DisplayItem) : State :=
  (s.withScreen k { s.screens[k] with queue := rest }).count .itemStale k

section
variable {s : State} {k : ScreenNo} {rest : List DisplayItem}

theorem State.staleHeadGone_clock : (s.staleHeadGone k rest).clock = s.clock := (State.count_frame _ _ _).clock

theorem State.staleHeadGone_screen : (s.staleHeadGone k rest).screens[k] = { s.screens[k] with queue := rest } := by
  have screens : (s.staleHeadGone k rest).screens = _ := (State.count_marks _ _ _).screens
  rw [screens]
  exact s.withScreen_same k _

/-- Considering a stale head is considering the next one, once it has left the queue and is counted (R145). -/
theorem State.settle_stale {x : DisplayItem} (hqueue : s.screens[k].queue = x :: rest)
    (hstale : x.due + s.screens[k].profile.stale < s.clock.value) :
    s.settleScreen k (s.screens[k].considered s.clock.value) =
      (s.staleHeadGone k rest).settleScreen k ((s.staleHeadGone k rest).screens[k].considered s.clock.value) := by
  have head := considerHead_stale rest s.screens[k].lines hstale
  have written : ∀ y : Screen, (s.staleHeadGone k rest).withScreen k y = (s.withScreen k y).count .itemStale k := fun y => by
    rw [State.staleHeadGone, ← (State.withScreen_aside k y).count, State.withScreen_withScreen]
  simp only [Screen.considered, State.staleHeadGone_screen, hqueue, head, State.settleScreen, written]
  rfl

end

/-- Settles O32. -/
theorem headPreemptsOrWaits : Obligations.HeadPreemptsOrWaits := by
  refine ⟨fun s k x rest hrun hwaiting hqueue hdue hfresh hfull => ⟨fun h => ?_, fun hx i z hz hplain hearliest hrest => ?_⟩,
    fun s k x rest hrun hwaiting hqueue hstale => ?_⟩
  · have head := considerHead_waits rest hdue hfresh (lineFor_of_none hfull h)
    rw [← hqueue] at head
    rw [exec_dueDeadline_of_due hrun hwaiting hqueue hdue, State.settleScreen, Screen.considered]
    simp only [head, Bool.false_eq_true, if_false]
    rfl
  · exact exec_dueDeadline_of_shown hrun hwaiting hqueue hdue hfresh
      (lineFor_of_preempted hfull hx hz hplain hearliest) hrest
  · have due : x.due ≤ s.clock.value := by omega
    rw [exec_dueDeadline_of_due hrun hwaiting hqueue due, State.settle_stale hqueue hstale]
    change _ = exec (.dueDeadline k) (s.staleHeadGone k rest)
    by_cases hnext : ∃ z tail, rest = z :: tail ∧ z.due ≤ s.clock.value
    · obtain ⟨z, tail, rfl, hz⟩ := hnext
      rw [exec_dueDeadline_of_due (x := z) (rest := tail) (by rw [State.staleHeadGone_clock]; exact hrun)
        (by rw [State.staleHeadGone_screen]; exact hwaiting) (by rw [State.staleHeadGone_screen])
        (by rw [State.staleHeadGone_clock]; exact hz), State.staleHeadGone_clock]
    · have later : ∀ y ∈ rest.head?, s.clock.value < y.due := fun y hy => by
        obtain ⟨tail, rfl⟩ := List.head?_eq_some_iff.mp hy
        exact not_le.mp fun hle => hnext ⟨y, tail, rfl, hle⟩
      rw [exec_dueDeadline_of_later (by rw [State.staleHeadGone_screen, State.staleHeadGone_clock]; exact later)]
      have stop := considerHead_stop (prof := s.screens[k].profile) (lines := s.screens[k].lines) later
      have settled : (s.staleHeadGone k rest).screens[k].considered s.clock.value =
          { screen := (s.staleHeadGone k rest).screens[k], counts := [], rises := false, full := false } := by
        simp only [Screen.considered, State.staleHeadGone_screen, stop, Screen.withHead, hwaiting]
      rw [settled]
      exact congrArg Host.Outcome.next ((s.staleHeadGone k rest).withScreen_self k)

/-- Settles O33. -/
theorem screenHelloAndHold : Obligations.ScreenHelloAndHold := by
  refine ⟨fun s k hstart => congrArg Host.Outcome.next (if_neg (ne_true_of_eq_false hstart)), fun s k h hheld hle => ?_⟩
  have guard : (s.screens[k].held.any fun h => decide (h.deadline ≤ s.elapsed)) = true := by
    rw [hheld]
    exact decide_eq_true hle
  refine congrArg Host.Outcome.next ((if_pos guard).trans ?_)
  exact if_pos (by rw [hheld]; rfl)

end Sys2Proof.Machine

/-! SET PROFILE (9.1). -/

namespace Sys2Proof.Machine

set_option Elab.async false

/-! ## The operands of SET PROFILE (R138) -/

theorem waveOf_isSome_iff (b : Byte) : (waveOf b).isSome = true ↔ b.toNat ≤ 15 := by
  unfold waveOf indexOf
  split
  · exact iff_of_true rfl (by omega)
  · exact iff_of_false (by decide) (by omega)

theorem wavesOf_some {bs : List Byte} (h : ∀ b ∈ bs, b.toNat ≤ 15) :
    wavesOf bs = some ((List.finRange 16).filter fun w => bs.any fun b => b.toNat == w.val) := by
  refine if_pos ?_
  rw [List.all_eq_true]
  exact fun b hb => (waveOf_isSome_iff b).mpr (h b hb)

theorem wavesOf_none {bs : List Byte} (h : ∃ b ∈ bs, 15 < b.toNat) : wavesOf bs = none := by
  obtain ⟨b, hb, hout⟩ := h
  refine if_neg fun hall => ?_
  rw [List.all_eq_true] at hall
  exact absurd ((waveOf_isSome_iff b).mp (hall b hb)) (not_le.mpr hout)

/-- Profile fields that are all in their ranges are read, each field left out at its default (R138). -/
theorem profileOf_some {a : ProfileArgs} {trigger : Point} (htrigger : a.trigger.toNat = trigger.val)
    (hgap : a.gap.toNat ≤ 2000) (hlead : a.lead.toNat ≤ 10000) (hlines : 1 ≤ a.lines.toNat ∧ a.lines.toNat ≤ 4)
    (hpace : ∀ v ∈ a.defaultPace, 150 ≤ v.toNat ∧ v.toNat ≤ 600) (hhold : ∀ v ∈ a.hold, 1000 ≤ v.toNat ∧ v.toNat ≤ 15000)
    (hstale : ∀ v ∈ a.stale, v.toNat ≤ 30000) (hpoll : ∀ v ∈ a.pollHold, v.toNat ≤ 10000)
    (hwaves : ∀ b ∈ a.waves, b.toNat ≤ 15) : profileOf a = some {
      enabled := a.enabled.getD false, trigger, gap := a.gap.toNat, lead := a.lead.toNat
      defaultPace := (a.defaultPace.map fun v => v.toNat).getD 360, lines := a.lines.toNat
      hold := (a.hold.map fun v => v.toNat).getD 4000, stale := (a.stale.map fun v => v.toNat).getD 5000
      waves := (List.finRange 16).filter fun w => a.waves.any fun b => b.toNat == w.val
      showEstimated := a.showEstimated, showProjection := a.showProjection
      pollHold := (a.pollHold.map fun v => v.toNat).getD 2000 } := by
  simp only [profileOf, pointOf, indexOf_some htrigger, halfIn_some (Nat.zero_le _) hgap, halfIn_some (Nat.zero_le _) hlead,
    byteIn_some hlines.1 hlines.2, optHalfIn_some hpace, optHalfIn_some hhold,
    optHalfIn_some (lo := 0) fun v hv => ⟨Nat.zero_le _, hstale v hv⟩,
    optHalfIn_some (lo := 0) fun v hv => ⟨Nat.zero_le _, hpoll v hv⟩, wavesOf_some hwaves, Option.bind_eq_bind, Option.bind_some]

/-- A profile field out of its range leaves the profile unread (R138). -/
theorem profileOf_none {a : ProfileArgs} (h : 9 < a.trigger.toNat ∨ 2000 < a.gap.toNat ∨ 10000 < a.lead.toNat ∨
    a.lines.toNat = 0 ∨ 4 < a.lines.toNat ∨ (∃ v ∈ a.defaultPace, v.toNat < 150 ∨ 600 < v.toNat) ∨
    (∃ v ∈ a.hold, v.toNat < 1000 ∨ 15000 < v.toNat) ∨ (∃ v ∈ a.stale, 30000 < v.toNat) ∨
    (∃ v ∈ a.pollHold, 10000 < v.toNat) ∨ ∃ b ∈ a.waves, 15 < b.toNat) : profileOf a = none := by
  refine Option.eq_none_iff_forall_ne_some.mpr fun x hx => ?_
  simp only [profileOf, Option.bind_eq_bind, Option.bind_eq_some_iff] at hx
  obtain ⟨_, h1, _, h2, _, h3, _, h4, _, h5, _, h6, _, h7, _, h8, _, h9, _⟩ := hx
  rcases h with h | h | h | h | h | h | h | ⟨v, hv, h⟩ | ⟨v, hv, h⟩ | h
  · rw [pointOf, indexOf_none (n := 10) h] at h1; exact nomatch h1
  · rw [halfIn_none (.inr h)] at h2; exact nomatch h2
  · rw [halfIn_none (.inr h)] at h3; exact nomatch h3
  · rw [byteIn_none (.inl (by omega))] at h5; exact nomatch h5
  · rw [byteIn_none (.inr h)] at h5; exact nomatch h5
  · rw [optHalfIn_none h] at h4; exact nomatch h4
  · rw [optHalfIn_none h] at h6; exact nomatch h6
  · rw [optHalfIn_none ⟨v, hv, .inr h⟩] at h7; exact nomatch h7
  · rw [optHalfIn_none ⟨v, hv, .inr h⟩] at h9; exact nomatch h9
  · rw [wavesOf_none h] at h8; exact nomatch h8

/-- Settles O35. -/
theorem setProfileEmptiesScreen : Obligations.SetProfileEmptiesScreen := by
  refine ⟨fun s l tag screen a k trigger waves h hk htrigger hnumbers hpace hhold hstale hpoll hwaves hset => ?_,
    fun s l tag screen a h hout => ?_⟩
  · obtain ⟨hgap, hlead, hlines⟩ := hnumbers
    refine exec_of_ok (i := .setProfile l tag screen a) rfl h.1 (.inr h.2) ?_
    subst hset
    simp only [ownHandling, setProfile, screenOf, indexOf_some hk,
      profileOf_some htrigger hgap hlead hlines hpace hhold hstale hpoll hwaves]
    rfl
  · refine exec_of_refused (i := .setProfile l tag screen a) rfl h.1 (.inr h.2) ?_
    rcases hout with hk | hout
    · simp only [ownHandling, setProfile, screenOf, indexOf_none (n := 8) hk]
    · simp only [ownHandling, setProfile, profileOf_none hout]
      cases screenOf screen <;> rfl

end Sys2Proof.Machine

/-! WITHDRAW, DISQUALIFY and REINSTATE, and the removal of a runner's items (6.4, 6.6, 9.4). -/

namespace Sys2Proof.Machine

set_option Elab.async false

/-! ## The derived status (R98) -/

theorem usable_isSome_iff {cs : Crossings} {p : Point} :
    (usable cs p).isSome = true ↔ ∃ c, cs[p] = some c ∧ c.suspect = none := by
  rw [Option.isSome_iff_exists]
  exact exists_congr fun c => usable_eq_some

theorem finish_usable_iff (course : Course) (cs : Crossings) :
    (course.finish.bind fun p => usable cs p).isSome = true ↔
      ∃ p : Point, course[p].isSome = true ∧ (∀ q : Point, p < q → course[q] = none) ∧ (usable cs p).isSome = true := by
  rw [Option.isSome_iff_exists]
  simp only [Option.bind_eq_some_iff, Course.finish_eq_some]
  constructor
  · rintro ⟨c, p, ⟨hp, htop⟩, hc⟩
    exact ⟨p, hp, htop, by rw [hc]; rfl⟩
  · rintro ⟨p, hp, htop, hc⟩
    obtain ⟨c, hc⟩ := Option.isSome_iff_exists.mp hc
    exact ⟨c, p, ⟨hp, htop⟩, hc⟩

theorem any_usable_iff (cs : Crossings) :
    ((List.finRange 10).any fun p => (usable cs p).isSome) = true ↔ ∃ p : Point, (usable cs p).isSome = true := by
  simp only [List.any_eq_true, List.mem_finRange, true_and]

theorem statusFrom_eq_finished_iff (course : Course) (cs : Crossings) : statusFrom course cs = .finished ↔
    ∃ p : Point, course[p].isSome = true ∧ (∀ q : Point, p < q → course[q] = none) ∧ (usable cs p).isSome = true := by
  rw [← finish_usable_iff, statusFrom]
  split
  · exact iff_of_true rfl ‹_›
  · refine iff_of_false ?_ ‹_›
    split <;> exact nofun

theorem statusFrom_eq_registered_iff (course : Course) (cs : Crossings) :
    statusFrom course cs = .registered ↔ ∀ p : Point, ¬ (usable cs p).isSome = true := by
  rw [← not_exists, ← any_usable_iff, statusFrom]
  split
  · rename_i h
    obtain ⟨p, -, -, hp⟩ := (finish_usable_iff course cs).mp h
    exact iff_of_false nofun (not_not.mpr ((any_usable_iff cs).mpr ⟨p, hp⟩))
  · split
    · exact iff_of_false nofun (not_not.mpr ‹_›)
    · exact iff_of_true rfl ‹_›

theorem statusFrom_cases (course : Course) (cs : Crossings) :
    statusFrom course cs = .finished ∨ statusFrom course cs = .running ∨ statusFrom course cs = .registered := by
  unfold statusFrom
  split
  · exact .inl rfl
  · split
    · exact .inr (.inl rfl)
    · exact .inr (.inr rfl)

/-! ## The items of a bib leave a screen (R149) -/

/-- The item is of the bib. -/
def ofBib (bib : Half) (y : DisplayItem) : Bool := y.bib == bib

section
variable (x : Screen) (now : Nat) (bib : Half)

theorem clearLines_ofBib (lines : List (Option ShownItem)) : clearLines (ofBib bib) lines = lines.map fun y => match y with
    | some z => if z.item.bib = bib then none else some z
    | none => none := by
  refine List.map_congr_left fun y _ => ?_
  cases y with
  | none => rfl
  | some z =>
    by_cases h : z.item.bib = bib
    · simp [lineHolds, ofBib, h]
    · simp [lineHolds, ofBib, h]

/-- The lines hold no item of the bib exactly when clearing them changes nothing. -/
theorem clearLines_eq_self_iff (f : DisplayItem → Bool) (lines : List (Option ShownItem)) :
    clearLines f lines = lines ↔ lines.any (lineHolds f) = false := by
  rw [List.any_eq_false, clearLines]
  conv_lhs => rhs; rw [← List.map_id lines]
  rw [List.map_inj_left]
  refine forall₂_congr fun y _ => ?_
  cases y with
  | none => simp [lineHolds]
  | some z => cases h : f z.item <;> simp [lineHolds, h]

/-- What the removal of a bib's items comes to, by what it finds on the screen (R149). -/
theorem Screen.dropBib_eq : x.dropBib now bib =
    let lines := clearLines (ofBib bib) x.lines
    let queue := x.queue.filter fun y => y.bib ≠ bib
    if lines = x.lines ∧ queue = x.queue then { screen := x, counts := [], rises := false, full := false }
    else if lines ≠ x.lines ∨ ∃ y ∈ x.queue.head?, y.bib = bib then
      let r := considerHead x.profile now queue lines
      { screen := x.withHead r, counts := r.counts, rises := true, full := false }
    else { screen := { x with queue := queue }, counts := [], rises := true, full := false } := by
  have kept : (x.queue.filter fun y => decide (y.bib ≠ bib)) = x.queue.filter fun y => !ofBib bib y :=
    List.filter_congr fun y _ => by simp only [ofBib, ne_eq, decide_not]; rfl
  have untouched : (x.queue.filter fun y => !ofBib bib y) = x.queue ↔ x.queue.any (ofBib bib) = false := by
    rw [List.filter_eq_self, List.any_eq_false]
    simp only [Bool.not_eq_true', Bool.not_eq_true]
  have head : (∃ y ∈ x.queue.head?, y.bib = bib) ↔ x.queue.head?.any (ofBib bib) = true := by
    rw [Option.any_eq_true]
    simp only [ofBib, beq_iff_eq, Option.mem_def]
  simp only [kept, clearLines_eq_self_iff, untouched, head, ne_eq, Bool.not_eq_false]
  have nothing : (!x.lines.any (lineHolds (ofBib bib)) && !x.queue.any (ofBib bib)) = true ↔
      x.lines.any (lineHolds (ofBib bib)) = false ∧ x.queue.any (ofBib bib) = false := by
    rw [Bool.and_eq_true, Bool.not_eq_true', Bool.not_eq_true']
  exact if_congr nothing rfl (if_congr (Bool.or_eq_true _ _ ▸ Iff.rfl) rfl rfl)

theorem Screen.mem_items_iff (y : DisplayItem) :
    y ∈ x.items ↔ y ∈ x.queue ∨ ∃ z, some z ∈ x.lines ∧ z.item = y := by
  rw [Screen.items, List.mem_append, List.mem_filterMap]
  refine or_congr_right ⟨?_, fun ⟨z, hz, e⟩ => ⟨some z, hz, congrArg some e⟩⟩
  rintro ⟨w, hw, e⟩
  obtain ⟨z, rfl, hz⟩ := Option.map_eq_some_iff.mp e
  exact ⟨z, hw, hz⟩

theorem mem_clearLines_ofBib {lines : List (Option ShownItem)} {z : ShownItem}
    (h : some z ∈ clearLines (ofBib bib) lines) : z.item.bib ≠ bib ∧ some z ∈ lines := by
  obtain ⟨y, hy, e⟩ := List.mem_map.mp h
  split at e
  · exact nomatch e
  · subst e
    rename_i hno
    exact ⟨by simpa [lineHolds, ofBib] using hno, hy⟩

/-- A screen keeps items of other bibs alone, and gets none (R149). -/
theorem Screen.dropBib_items {y : DisplayItem} (h : y ∈ (x.dropBib now bib).screen.items) : y.bib ≠ bib ∧ y ∈ x.items := by
  have onLines : ∀ {z}, some z ∈ clearLines (ofBib bib) x.lines → z.item.bib ≠ bib ∧ z.item ∈ x.items := fun {z} hz => by
    obtain ⟨hne, hmem⟩ := mem_clearLines_ofBib bib hz
    exact ⟨hne, (x.mem_items_iff _).mpr (.inr ⟨z, hmem, rfl⟩)⟩
  have inQueue : ∀ {y}, y ∈ (x.queue.filter fun y => decide (y.bib ≠ bib)) → y.bib ≠ bib ∧ y ∈ x.items := fun {y} hy => by
    rw [List.mem_filter, decide_eq_true_iff] at hy
    exact ⟨hy.2, (x.mem_items_iff _).mpr (.inl hy.1)⟩
  rw [Screen.dropBib_eq] at h
  dsimp only at h
  split at h
  · rename_i same
    rcases (x.mem_items_iff y).mp h with hy | ⟨z, hz, rfl⟩
    · rw [← same.2] at hy; exact inQueue hy
    · rw [← same.1] at hz; exact onLines hz
  · split at h
    · obtain ⟨fromQueue, fromLines⟩ := considerHead_mem x.profile now (x.queue.filter fun y => decide (y.bib ≠ bib))
        (clearLines (ofBib bib) x.lines)
      rcases (Screen.mem_items_iff _ y).mp h with hy | ⟨z, hz, rfl⟩
      · exact inQueue (fromQueue y hy)
      · exact (fromLines z hz).elim onLines inQueue
    · rename_i plain
      have same : clearLines (ofBib bib) x.lines = x.lines := not_not.mp fun ne => plain (.inl ne)
      rcases (Screen.mem_items_iff _ y).mp h with hy | ⟨z, hz, rfl⟩
      · exact inQueue hy
      · rw [← same] at hz; exact onLines hz

/-- Nothing on the screen is of the bib exactly when the removal finds nothing to remove. -/
theorem Screen.untouched_iff : (clearLines (ofBib bib) x.lines = x.lines ∧
    (x.queue.filter fun y => decide (y.bib ≠ bib)) = x.queue) ↔ ∀ y ∈ x.items, y.bib ≠ bib := by
  rw [clearLines_eq_self_iff, List.any_eq_false, List.filter_eq_self]
  simp only [Screen.mem_items_iff, decide_eq_true_eq]
  constructor
  · rintro ⟨hlines, hqueue⟩ y (hy | ⟨z, hz, rfl⟩)
    · exact hqueue y hy
    · simpa [lineHolds, ofBib] using hlines _ hz
  · refine fun h => ⟨fun w hw => ?_, fun y hy => h y (.inl hy)⟩
    cases w with
    | none => simp [lineHolds]
    | some z => simpa [lineHolds, ofBib] using h z.item (.inr ⟨z, hw, rfl⟩)

theorem Screen.dropBib_of_absent (h : ∀ y ∈ x.items, y.bib ≠ bib) :
    x.dropBib now bib = { screen := x, counts := [], rises := false, full := false } := by
  rw [Screen.dropBib_eq]
  exact if_pos ((x.untouched_iff bib).mpr h)

theorem Screen.dropBib_of_present (h : ∃ y ∈ x.items, y.bib = bib) :
    (x.dropBib now bib).rises = true ∧ (x.dropBib now bib).screen.seq = x.seq := by
  have touched : ¬ (clearLines (ofBib bib) x.lines = x.lines ∧
      (x.queue.filter fun y => decide (y.bib ≠ bib)) = x.queue) := fun same =>
    let ⟨y, hy, e⟩ := h
    (x.untouched_iff bib).mp same y hy e
  rw [Screen.dropBib_eq]
  simp only [if_neg touched]
  split <;> exact ⟨rfl, rfl⟩

end

/-- Settles O48. -/
theorem statusCommands : Obligations.StatusCommands := by
  refine ⟨fun s l tag bib h => ?_, fun course cs => ?_, fun s bib => ⟨rfl, fun k => ⟨fun x hx => ?_, fun hno => ?_, fun hsome => ?_⟩⟩,
    fun x now bib => ?_⟩
  · have withdraw_ok : ∀ {t}, withdrawRunner bib (s.hearControl l) = .ok t →
        exec (.withdraw l tag bib) s = .next (t.respond l tag .ok .nothing) :=
      exec_of_ok (i := .withdraw l tag bib) rfl h.1.1 (.inr h.1.2)
    have disqualify_ok : ∀ {t}, disqualifyRunner bib (s.hearControl l) = .ok t →
        exec (.disqualify l tag bib) s = .next (t.respond l tag .ok .nothing) :=
      exec_of_ok (i := .disqualify l tag bib) rfl h.1.1 (.inr h.1.2)
    have reinstate_ok : ∀ {t}, reinstateRunner bib (s.hearControl l) = .ok t →
        exec (.reinstate l tag bib) s = .next (t.respond l tag .ok .nothing) :=
      exec_of_ok (i := .reinstate l tag bib) rfl h.1.1 (.inr h.1.2)
    have withdraw_refused : ∀ {r}, withdrawRunner bib (s.hearControl l) = .refuse r →
        exec (.withdraw l tag bib) s = .next ((s.hearControl l).respond l tag r .nothing) :=
      exec_of_refused (i := .withdraw l tag bib) rfl h.1.1 (.inr h.1.2)
    have disqualify_refused : ∀ {r}, disqualifyRunner bib (s.hearControl l) = .refuse r →
        exec (.disqualify l tag bib) s = .next ((s.hearControl l).respond l tag r .nothing) :=
      exec_of_refused (i := .disqualify l tag bib) rfl h.1.1 (.inr h.1.2)
    have reinstate_refused : ∀ {r}, reinstateRunner bib (s.hearControl l) = .refuse r →
        exec (.reinstate l tag bib) s = .next ((s.hearControl l).respond l tag r .nothing) :=
      exec_of_refused (i := .reinstate l tag bib) rfl h.1.1 (.inr h.1.2)
    refine ⟨fun hzero => ?_, fun hbib hnone => ?_, fun r hbib hr => ?_⟩
    · have refused := fun k => State.correct_of_out_of_range (s := s.hearControl l) h.2 (bib := bib) (inRange := true) (.inl hzero) k
      exact ⟨withdraw_refused (refused _), disqualify_refused (refused _), reinstate_refused (refused _)⟩
    · have refused := fun k => State.correct_of_unknown (s := s.hearControl l) h.2 hbib hnone k
      exact ⟨withdraw_refused (refused _), disqualify_refused (refused _), reinstate_refused (refused _)⟩
    · have found := fun k => State.correct_of_found (s := s.hearControl l) h.2 hbib hr k
      refine ⟨fun hstatus => ?_, fun hne1 hne2 => ?_, fun hne => ?_, fun hstatus => ?_, fun hstatus => ?_, fun hne1 hne2 => ?_⟩
      · exact withdraw_ok ((found _).trans (if_pos hstatus))
      · exact withdraw_refused ((found _).trans (if_neg (not_or.mpr ⟨hne1, hne2⟩)))
      · exact disqualify_ok ((found _).trans (if_neg hne))
      · exact disqualify_refused ((found _).trans (if_pos hstatus))
      · exact reinstate_ok ((found _).trans (if_pos hstatus))
      · exact reinstate_refused ((found _).trans (if_neg (not_or.mpr ⟨hne1, hne2⟩)))
  · intro counted
    have counts : ∀ p, counted p ↔ (usable cs p).isSome = true := fun p => usable_isSome_iff.symm
    simp only [counts]
    exact ⟨statusFrom_eq_finished_iff course cs, statusFrom_eq_registered_iff course cs, statusFrom_cases course cs⟩
  · rw [State.dropBib_screen, State.settleScreen_self] at hx
    refine Screen.dropBib_items s.screens[k] s.now bib ?_
    split at hx
    · exact hx
    · exact hx
  · rw [State.dropBib_screen, State.settleScreen_self, Screen.dropBib_of_absent _ _ _ hno]
    rfl
  · obtain ⟨rises, seq⟩ := Screen.dropBib_of_present s.screens[k] s.now bib hsome
    rw [State.dropBib_screen, State.settleScreen_self, if_pos rises, seq]
  · intro lines queue head headGone
    have clears : clearLines (ofBib bib) x.lines = lines := clearLines_ofBib bib x.lines
    rw [Screen.dropBib_eq, clears]
    refine ⟨fun hlines hqueue => if_pos ⟨hlines, hqueue⟩, fun hsome => ?_, fun hlines hqueue hhead => ?_⟩
    · have touched : ¬ (lines = x.lines ∧ queue = x.queue) := fun ⟨hlines, hqueue⟩ => by
        rcases hsome with hne | ⟨y, hy, e⟩
        · exact hne hlines
        · have other := List.filter_eq_self.mp hqueue y (List.mem_of_mem_head? hy)
          exact of_decide_eq_true other e
      exact (if_neg touched).trans (if_pos hsome)
    · exact (if_neg fun both => hqueue both.2).trans (if_neg (not_or.mpr ⟨not_not.mpr hlines, hhead⟩))

end Sys2Proof.Machine

/-! The figures of Split Arithmetic in closed form: the net time by the start or the gun, the pace as a
rounded quotient, the segment and the projection by what they read, and the due time. -/

namespace Sys2Proof.Machine
set_option Elab.async false

/-- The net time of a crossing with a usable start runs from it (R114). -/
theorem netTime_eq_start (cs : Crossings) (gun : Option Nat) (t n : Nat) :
    netTime cs gun t = some (n, false) ↔
      ∃ c, cs[(0 : Point)] = some c ∧ c.suspect = none ∧ c.time ≤ t ∧ n = t - c.time := by
  unfold netTime
  split
  case h_1 start found =>
    obtain ⟨c, here, good, early, rfl⟩ := (startTime_eq_some cs t start).mp found
    simp [here, good, early, eq_comm]
  case h_2 absent =>
    have late := (startTime_eq_none cs t).mp absent
    simp only [Option.map_eq_some_iff, Prod.mk.injEq, Bool.true_eq_false, and_false, exists_const, false_iff,
      not_exists, not_and]
    exact fun c here good early => absurd (late c here good) (by omega)

/-- Without a usable start the net time runs from the gun, FROM_GUN (R114). -/
theorem netTime_eq_gun (cs : Crossings) (gun : Option Nat) (t n : Nat) :
    netTime cs gun t = some (n, true) ↔
      (∀ c, cs[(0 : Point)] = some c → c.suspect = none → t < c.time) ∧ ∃ g, gun = some g ∧ g ≤ t ∧ n = t - g := by
  rw [← startTime_eq_none]
  unfold netTime
  split
  case h_1 start found => simp [found]
  case h_2 absent =>
    simp only [absent, true_and, Option.map_eq_some_iff, Prod.mk.injEq, and_true, exists_eq_right, gunElapsed_eq_some,
      eq_comm (a := n)]

/-- A pace is the whole number of seconds per kilometre nearest to the quotient, halves going up (R117). -/
theorem pace_nearest {g : Segment} (apart : 0 < g.distance) :
    (∀ v, pace g = some v → v ≤ 3599 ∧ 2 * g.time < (2 * v + 1) * g.distance ∧
      2 * v * g.distance ≤ 2 * g.time + g.distance) ∧
    (pace g = none → 7199 * g.distance ≤ 2 * g.time) := by
  have low := Nat.div_mul_le_self (g.time + g.distance / 2) g.distance
  have high := Nat.lt_div_mul_add (a := g.time + g.distance / 2) apart
  unfold pace
  dsimp only [Config.slowestPace]
  generalize (g.time + g.distance / 2) / g.distance = w at low high ⊢
  split
  case isTrue small =>
    refine ⟨fun v eq => ?_, nofun⟩
    obtain rfl : w = v := Option.some.inj eq
    rw [Nat.add_mul, Nat.mul_assoc]
    omega
  case isFalse large =>
    refine ⟨nofun, fun _ => ?_⟩
    have floor : 3600 * g.distance ≤ w * g.distance := Nat.mul_le_mul_right _ (by omega)
    omega

/-- The rate between two records is the rounded quotient over a long enough span, and absent over any other (R40). -/
theorem measuredRate_spec (x y : SyncRecord) :
    let dT : Int := (y.pulse : Int) - x.pulse
    let dD : Int := (y.dtime - x.dtime).toInt
    (dT < 30000 ∨ dD ≤ 0 → measuredRate x y = none) ∧
    (30000 ≤ dT → 0 < dD → measuredRate x y = some (roundHalfAway ((dT - dD) * 1000000) dD)) := by
  dsimp only
  exact ⟨fun short => if_neg fun long => by simp only [Config.rateSpan, signedDiff] at long; omega,
    fun long forward => if_pos ⟨long, forward⟩⟩

/-- The due time lies between the crossing's time and the greatest race time (R121). -/
theorem dueTime_spec (t travel lead : Nat) (inRange : t ≤ 4294967295) :
    (travel < lead → dueTime t travel lead = t) ∧
    (lead ≤ travel → dueTime t travel lead = min (t + (travel - lead)) 4294967295) ∧
    t ≤ dueTime t travel lead ∧ dueTime t travel lead ≤ 4294967295 := by
  unfold dueTime satTime
  dsimp only [Config.maxRaceTime]
  split <;> omega

theorem segment_eq_some (course : Course) (cs : Crossings) (p : Point) (t : Nat) (g : Segment) :
    segment course cs p t = some g ↔ ∃ q c x y, nearestLower cs p = some (q, c) ∧ course[p] = some x ∧
      course[q] = some y ∧ c.time < t ∧
      g = { lower := q, time := t - c.time, distance := x.distance - y.distance } := by
  simp only [segment, Option.bind_eq_bind, Option.bind_eq_some_iff, Prod.exists, Option.ite_none_right_eq_some,
    Option.some.injEq, eq_comm (a := g), exists_and_left]

theorem projection_eq_some (course : Course) (floor : Nat) (p : Point) (net : Option Nat) (v : Nat) :
    projection course floor p net = some v ↔ ∃ n x finish goal, net = some n ∧ course[p] = some x ∧
      course[finish] = some goal ∧ (∀ q : Point, finish < q → course[q] = none) ∧ floor ≤ x.distance ∧ p ≠ finish ∧
      (n * goal.distance + x.distance / 2) / x.distance < 86400000 ∧
      v = (n * goal.distance + x.distance / 2) / x.distance / 1000 := by
  simp only [projection, Option.bind_eq_bind, Option.bind_eq_some_iff, Option.ite_none_right_eq_some,
    Course.finish_eq_some, Option.some.injEq, Config.projectionCap]
  constructor
  · rintro ⟨n, hn, x, hx, finish, ⟨-, last⟩, goal, hgoal, ⟨far, early, small⟩, hv⟩
    exact ⟨n, x, finish, goal, hn, hx, hgoal, last, far, early, small, hv.symm⟩
  · rintro ⟨n, x, finish, goal, hn, hx, hgoal, last, far, early, small, hv⟩
    exact ⟨n, hn, x, hx, finish, ⟨by rw [hgoal, Option.isSome_some], last⟩, goal, hgoal, ⟨far, early, small⟩, hv.symm⟩

/-- Settles O30, figure by figure. -/
theorem ratePaceAndDueTimeAreExact : Obligations.RatePaceAndDueTimeAreExact := by
  refine ⟨fun x y => ?_, fun g => pace_nearest, dueTime_spec,
    fun cs gun t n => ⟨netTime_eq_start cs gun t n, netTime_eq_gun cs gun t n, rfl⟩, segment_eq_some,
    projection_eq_some, fun gap defaultPace g => ⟨rfl, rfl⟩⟩
  obtain ⟨absent, present⟩ := measuredRate_spec x y
  exact ⟨absent, fun long forward => ⟨_, present long forward, roundHalfAway_nearest _ forward⟩⟩

end Sys2Proof.Machine

/-! One crossing against the record that stands at its point (6.1, 6.2, 6.3, 6.4). -/

namespace Sys2Proof.Machine

set_option Elab.async false

/-! ## A check run and what it writes (R96, R97) -/

section
variable (s : State) (r : Runner) (p : Point) (c : Crossing)

/-- The state after crossing `c` took a place at `p`, where it had none and `reason` is none (R96, R97). -/
def State.placedFor (reason : Option Suspect) (p : Point) (place : Option Nat) : State :=
  if reason = none ∧ place = none then
    { s with registry := { s.registry with
      counters := s.registry.counters.set p (nextPlace s.registry.counters[p]) } }
  else s

/-- The crossing that a check run with this outcome leaves: its reason, or a place (R96). -/
def State.judgedAs (reason : Option Suspect) : Crossing :=
  { c with
    suspect := reason
    place := if reason = none then some (c.place.getD (nextPlace s.registry.counters[p])) else c.place }

/-- A check run, by the reason it finds (R96, R97). -/
theorem State.judge_eq_placedFor : s.judge r p c =
    (s.placedFor (checkReason s r p c.time) p c.place, s.judgedAs p c (checkReason s r p c.time)) := by
  obtain ⟨found, clean⟩ := s.judge_eq r p c
  cases hreason : checkReason s r p c.time with
  | some why =>
    rw [found why hreason, State.placedFor, if_neg (by simp), State.judgedAs, if_neg nofun]
  | none =>
    rw [clean hreason, State.takePlace_eq, State.placedFor, State.judgedAs]
    cases c.place <;> rfl

variable (reason : Option Suspect) (place : Option Nat)

/-- Taking a place writes the place counters alone. -/
theorem State.placedFor_eq : ∃ counters, s.placedFor reason p place =
    { s with registry := { s.registry with counters := counters } } := by
  unfold State.placedFor
  split
  · exact ⟨_, rfl⟩
  · exact ⟨s.registry.counters, rfl⟩

theorem State.placedFor_runner (bib : Half) : (s.placedFor reason p place).runner bib = s.runner bib := by
  obtain ⟨counters, h⟩ := s.placedFor_eq p reason place
  rw [h]
  rfl

theorem State.placedFor_course : (s.placedFor reason p place).registry.course = s.registry.course := by
  obtain ⟨counters, h⟩ := s.placedFor_eq p reason place
  rw [h]

end

/-- The runner's record after crossing `c` was written at `p`, with the status derived (R98). -/
def Runner.crossed (course : Course) (r : Runner) (p : Point) (c : Crossing) : Runner :=
  (r.withCrossing p (some c)).derived course

theorem Runner.crossed_bib (course : Course) (r : Runner) (p : Point) (c : Crossing) :
    (r.crossed course p c).bib = r.bib := Runner.derived_bib _ _

/-! ## A crossing judged again over the recorded one -/

section
variable (s : State) (r : Runner) (p : Point) (c : Crossing)

/-- A crossing judged and written, with the tally events `more` after that of a reason found (R92, R93, R177). -/
def State.judgeOver (more : List TallyClass) : State :=
  let (t, x) := s.judge r p c
  ((t.writeCrossing r p (some x)).countAll (suspectCount x ++ more) p).raiseIf x.suspect.isSome .suspect

/-- The recorded crossing with the time and source of `i`, which confirms it at equal quality (R92, R93). -/
def Incoming.over (i : Incoming) (old : Crossing) : Crossing :=
  { old with
    time := i.time, source := .port i.source, estimated := i.estimated
    confirmed := decide (old.estimated = i.estimated) }

theorem State.replaceCrossing_eq {i : Incoming} {old : Crossing} (plain : old.amended = false)
    (differs : old.estimated ≠ i.estimated) : s.replaceCrossing r i old = s.judgeOver r i.point (i.over old) [] := by
  simp only [State.replaceCrossing, State.judgeOver, Incoming.over, List.append_nil, plain, decide_eq_false differs]

theorem State.confirmCrossing_of_earlier {i : Incoming} {old : Crossing} (equal : old.estimated = i.estimated)
    (h : i.time < old.time) :
    s.confirmCrossing r i old = s.judgeOver r i.point (i.over old) [.crossingConfirmed] := by
  simp only [State.confirmCrossing, State.judgeOver, Incoming.over, equal, decide_true]
  exact if_pos h

theorem State.confirmCrossing_of_not_earlier {i : Incoming} {old : Crossing} (h : old.time ≤ i.time) :
    s.confirmCrossing r i old = (s.putRunner (r.crossed s.registry.course i.point { old with confirmed := true })).count
      .crossingConfirmed i.point := if_neg (not_lt.mpr h)

/-- What judging a crossing again writes and marks, by the reason found (R96, R97, R98). -/
theorem State.judgeOver_eq (more : List TallyClass) :
    let reason := checkReason s r p c.time
    let u := (s.placedFor reason p c.place).putRunner (r.crossed s.registry.course p (s.judgedAs p c reason))
    s.judgeOver r p c more = if reason = none then u.countAll more p
      else ((u.count .crossingSuspect p).countAll more p).raise .suspect := by
  simp only [State.judgeOver, State.judge_eq_placedFor, State.writeCrossing, State.placedFor_course]
  cases checkReason s r p c.time <;> rfl

theorem State.judgeOver_marks (more : List TallyClass) :
    let reason := checkReason s r p c.time
    MarksOnly ((s.placedFor reason p c.place).putRunner (r.crossed s.registry.course p (s.judgedAs p c reason)))
      (s.judgeOver r p c more) := by
  dsimp only
  rw [State.judgeOver_eq]
  split
  · exact State.countAll_marks _ _ _
  · exact ((State.count_marks _ _ _).trans (State.countAll_marks _ _ _)).trans (State.raise_marks _ _)

end

/-- A record written for a runner of the table is that bib's and no other's. -/
theorem State.runner_of_putRunner {s t u : State} {bib : Half} {r x : Runner}
    (registry : t.registry = (u.putRunner x).registry) (same : ∀ b, u.runner b = s.runner b)
    (hr : s.runner bib = some r) (hx : x.bib = r.bib) :
    t.runner bib = some x ∧ ∀ other, other ≠ bib → t.runner other = s.runner other := by
  have kept : ∀ b, t.runner b = (u.putRunner x).runner b := fun b => by
    unfold State.runner
    rw [registry]
  obtain ⟨own, others⟩ := State.putRunner_runner ((same bib).trans hr) (hx.trans (State.runner_bib hr))
  exact ⟨(kept bib).trans own, fun other h => (kept other).trans ((others other h).trans (same other))⟩

/-- What judging a crossing again leaves of the state: the runner's record, the places, SUSPECT and nothing else. -/
theorem State.judgeOver_kept (s : State) {r : Runner} (p : Point) (c : Crossing) (more : List TallyClass) {bib : Half}
    (hr : s.runner bib = some r) :
    let reason := checkReason s r p c.time
    let t := s.judgeOver r p c more
    t.runner bib = some (r.crossed s.registry.course p (s.judgedAs p c reason)) ∧
    (∀ other, other ≠ bib → t.runner other = s.runner other) ∧
    t.registry.counters = (s.placedFor reason p c.place).registry.counters ∧
    (reason ≠ none → ∀ l, Condition.suspect ∈ (t.controlLink l).pending) ∧
    t.control.watchLog = s.control.watchLog ∧ t.screens = s.screens ∧ t.park = s.park ∧ t.sent = s.sent := by
  intro reason t
  have marks : MarksOnly _ t := s.judgeOver_marks r p c more
  obtain ⟨own, others⟩ := State.runner_of_putRunner marks.registry (s.placedFor_runner p reason c.place) hr
    (Runner.crossed_bib _ _ _ _)
  obtain ⟨counters, placed⟩ := s.placedFor_eq p reason c.place
  refine ⟨own, others, by rw [marks.registry]; rfl, fun found l => ?_, marks.watchLog.trans ?_,
    marks.screens.trans ?_, marks.park.trans ?_, marks.sent.trans ?_⟩
  · have closed : t = _ := (s.judgeOver_eq r p c more).trans (if_neg found)
    rw [closed, State.raise_pending]
    exact .inl rfl
  all_goals
    rw [placed]
    rfl

/-! ## Quality (R89) -/

theorem rankOf_lower_iff (amended old new : Bool) :
    rankOf false new < rankOf amended old ↔ amended = true ∨ old = false ∧ new = true := by
  cases amended <;> cases old <;> cases new <;> decide

theorem rankOf_higher_iff (old new : Bool) : rankOf false old < rankOf false new ↔ old = true ∧ new = false := by
  cases old <;> cases new <;> decide

section
variable {s : State} {r : Runner} {i : Incoming} {b : Bool} {old : Crossing}

theorem State.takeCrossing_of_known {bib : Half} (chip : s.bibOf i.chip = some bib) (runner : s.runner bib = some r) :
    s.takeCrossing i b =
      if s.registry.course[i.point].isSome then s.applyCrossing r i b else s.count .crossingRepeat i.point := by
  unfold State.takeCrossing
  simp only [chip, runner]

theorem State.applyCrossing_of_lower (here : r.crossings[i.point] = some old)
    (h : old.amended = true ∨ old.estimated = false ∧ i.estimated = true) :
    s.applyCrossing r i b = s.count .crossingRepeat i.point := by
  unfold State.applyCrossing
  simp only [here]
  exact if_pos ((rankOf_lower_iff _ _ _).mpr h)

theorem State.applyCrossing_of_higher (here : r.crossings[i.point] = some old) (plain : old.amended = false)
    (h : old.estimated = true ∧ i.estimated = false) : s.applyCrossing r i b = s.replaceCrossing r i old := by
  unfold State.applyCrossing
  simp only [here, plain]
  have notLower : ¬ rankOf false i.estimated < rankOf false old.estimated := by rw [h.1, h.2]; decide
  exact (if_neg notLower).trans (if_pos ((rankOf_higher_iff _ _).mpr h))

/-- A crossing of equal quality confirms when it is of the other port and within the window (R93, R94). -/
theorem State.applyCrossing_of_equal (here : r.crossings[i.point] = some old) (plain : old.amended = false)
    (h : old.estimated = i.estimated) : s.applyCrossing r i b =
      if old.source ≠ .port i.source ∧ i.time ≤ old.time + s.registry.limits.confirmWindow ∧
          old.time ≤ i.time + s.registry.limits.confirmWindow then s.confirmCrossing r i old
      else s.count .crossingRepeat i.point := by
  unfold State.applyCrossing
  simp only [here, plain, h, lt_irrefl, if_false]
  refine if_congr ?_ rfl rfl
  simp [withinWindow]

end

/-- Settles O28: by the quality of the crossing against the recorded one, and the reason that the check run finds. -/
theorem secondCrossingsAreJudged : Obligations.SecondCrossingsAreJudged := by
  constructor
  · intro s i b bib r chip runner absent
    exact (State.takeCrossing_of_known chip runner).trans (if_neg (by rw [absent]; decide))
  intro s i b bib r old chip runner configured here w
  have applied : s.takeCrossing i b = s.applyCrossing r i b :=
    (State.takeCrossing_of_known chip runner).trans (if_pos configured)
  refine ⟨fun lower => ?_, fun plain equal apart => ?_, fun plain equal other later near => ?_,
    fun plain better => ?_⟩
  · exact applied.trans (State.applyCrossing_of_lower here lower)
  · refine applied.trans ((State.applyCrossing_of_equal here plain equal).trans (if_neg ?_))
    rintro ⟨other, notAfter, notBefore⟩
    rcases apart with own | after | before
    · exact other own
    · exact absurd notAfter (not_le.mpr after)
    · exact absurd notBefore (not_le.mpr before)
  · refine applied.trans ((State.applyCrossing_of_equal here plain equal).trans ((if_pos ⟨other, near, ?_⟩).trans
      (s.confirmCrossing_of_not_earlier r later)))
    omega
  · intro reason n taken x placed u t
    have closed : ∀ {more}, t = s.judgeOver r i.point (i.over old) more →
        t = if reason = none then u.countAll more i.point
          else ((u.count .crossingSuspect i.point).countAll more i.point).raise .suspect :=
      fun done => done.trans (s.judgeOver_eq r i.point (i.over old) _)
    have kept : ∀ {more}, t = s.judgeOver r i.point (i.over old) more → _ :=
      fun done => done ▸ s.judgeOver_kept i.point (i.over old) _ runner
    rcases better with higher | ⟨equal, other, earlier, near⟩
    case inl =>
      have differs : old.estimated ≠ i.estimated := by rw [higher.1, higher.2]; decide
      have done : t = s.judgeOver r i.point (i.over old) [] := applied.trans
        ((State.applyCrossing_of_higher here plain higher).trans (s.replaceCrossing_eq r plain differs))
      exact ⟨fun _ clean => (closed done).trans (if_pos clean), fun _ found => (closed done).trans (if_neg found),
        fun same => absurd same differs, fun same => absurd same differs, kept done⟩
    case inr =>
      have done : t = s.judgeOver r i.point (i.over old) [.crossingConfirmed] := applied.trans
        ((State.applyCrossing_of_equal here plain equal).trans
          ((if_pos ⟨other, by omega, near⟩).trans (s.confirmCrossing_of_earlier r equal earlier)))
      exact ⟨fun differs => absurd equal differs, fun differs => absurd equal differs,
        fun _ clean => (closed done).trans (if_pos clean), fun _ found => (closed done).trans (if_neg found), kept done⟩

end Sys2Proof.Machine

/-! A crossing recorded as new, its way to the watch log and to the screens, and the offer of its item to a due queue
(6.2, 6.4, 6.5, 9.2). -/

namespace Sys2Proof.Machine

set_option Elab.async false

/-! ## The watch log (R100, R172) -/

section
variable (s : State)

theorem State.appendWatch_grows (e : WatchEntry) : PendingGrows s (s.appendWatch e) := by
  have same : ∀ log flag, PendingGrows s (s.withControl { s.control with watchLog := log, overflow := flag }) :=
    fun log flag l _ h => by cases l <;> exact h
  unfold State.appendWatch
  split
  · exact same _ s.control.overflow
  · exact (same s.control.watchLog true).trans (State.raiseIf_grows _ _ _)

theorem State.logCrossing_grows (r : Runner) (p : Point) (c : Crossing) : PendingGrows s (s.logCrossing r p c) := by
  unfold State.logCrossing
  split
  · exact s.appendWatch_grows _
  · exact PendingGrows.refl s

theorem State.logCrossing_registry_park (r : Runner) (p : Point) (c : Crossing) :
    (s.logCrossing r p c).registry = s.registry ∧ (s.logCrossing r p c).park = s.park := by
  unfold State.logCrossing
  split
  · obtain ⟨-, registry, park, -⟩ := s.appendWatch_display _
    exact ⟨registry, park⟩
  · exact ⟨rfl, rfl⟩

/-- The watch log entry of a crossing (R100). -/
def State.watchEntry (r : Runner) (p : Point) (c : Crossing) : WatchEntry :=
  { bib := r.bib, point := p, time := c.time
    netSeconds := netSeconds r.crossings s.clock.guns[r.wave] c.time, suspect := c.suspect }

variable {s} {r : Runner}

theorem State.logCrossing_of_unwatched (h : r.bib ∉ s.control.watchList) (p : Point) (c : Crossing) :
    s.logCrossing r p c = s := if_neg fun watched => h (List.contains_iff_mem.mp watched)

theorem State.logCrossing_of_watched (h : r.bib ∈ s.control.watchList) (p : Point) (c : Crossing) :
    s.logCrossing r p c = s.appendWatch (s.watchEntry r p c) := if_pos (List.contains_iff_mem.mpr h)

theorem State.appendWatch_of_full (full : 64 ≤ s.control.watchLog.length) (e : WatchEntry) : s.appendWatch e =
    (s.withControl { s.control with overflow := true }).raiseIf (!s.control.overflow) .watchOverflow :=
  if_neg (not_lt.mpr full)

end

/-! ## Recording as new (R90, R100, R101) -/

/-- The tally event and the mark of a crossing recorded as new, by its reason (R90, R96). -/
def State.markNew (u : State) (reason : Option Suspect) (p : Point) : State :=
  let counted := u.count (if reason = none then .crossingNew else .crossingSuspect) p
  if reason = none then counted else counted.raise .suspect

theorem State.markNew_suspect (u : State) (c : Crossing) (p : Point) :
    (u.count (newCount c) p).raiseIf c.suspect.isSome .suspect = u.markNew c.suspect p := by
  unfold newCount State.markNew
  cases c.suspect <;> rfl

theorem State.markNew_marks (u : State) (reason : Option Suspect) (p : Point) : MarksOnly u (u.markNew reason p) := by
  unfold State.markNew
  split
  · exact State.count_marks _ _ _
  · exact (State.count_marks _ _ _).trans (State.raise_marks _ _)

theorem State.markNew_pending (u : State) {reason : Option Suspect} (found : reason ≠ none) (p : Point) (l : Side) :
    Condition.suspect ∈ ((u.markNew reason p).controlLink l).pending := by
  unfold State.markNew
  rw [if_neg found, State.raise_pending]
  exact .inl rfl

section
variable (s : State) (r : Runner) (i : Incoming) (b : Bool)

/-- The reason that the check run on a new crossing finds (R96). -/
def State.reasonOf : Option Suspect := checkReason s r i.point i.time

/-- The crossing as it stands after its check run (R90, R96). -/
def State.judgedNew : Crossing := s.judgedAs i.point i.fresh (s.reasonOf r i)

/-- The runner's record with the new crossing (R90, R98). -/
def State.crossedNew : Runner := r.crossed s.registry.course i.point (s.judgedNew r i)

/-- The state with the new crossing recorded, before the watch log and the screens (R90, R96, R98). -/
def State.writtenNew : State :=
  ((s.placedFor (s.reasonOf r i) i.point none).markNew (s.reasonOf r i) i.point).putRunner (s.crossedNew r i)

/-- The state with the new crossing offered to the watch log, before the hand-off (R100). -/
def State.loggedNew : State := (s.writtenNew r i).logCrossing (s.crossedNew r i) i.point (s.judgedNew r i)

theorem State.recordNew_eq : s.recordNew r i b = (s.loggedNew r i).handOffIf
    (isShown s.registry.course (s.crossedNew r i) i.point (s.judgedNew r i) b) (s.crossedNew r i) i.point
    (s.judgedNew r i) := by
  have judged : s.judge r i.point i.fresh = (s.placedFor (s.reasonOf r i) i.point none, s.judgedNew r i) :=
    s.judge_eq_placedFor r i.point i.fresh
  simp only [State.recordNew, judged, State.markNew_suspect]
  rfl

theorem State.loggedNew_registry : (s.loggedNew r i).registry =
    ((s.placedFor (s.reasonOf r i) i.point none).putRunner (s.crossedNew r i)).registry := by
  refine (State.logCrossing_registry_park _ _ _ _).1.trans ?_
  simp only [State.writtenNew, State.putRunner, State.withRegistry, (State.markNew_marks _ _ _).registry]

theorem State.loggedNew_park : (s.loggedNew r i).park = s.park := by
  obtain ⟨counters, placed⟩ := s.placedFor_eq i.point (s.reasonOf r i) none
  refine (State.logCrossing_registry_park _ _ _ _).2.trans ?_
  have marked := ((s.placedFor (s.reasonOf r i) i.point none).markNew_marks (s.reasonOf r i) i.point).park
  exact marked.trans (by rw [placed])

theorem State.loggedNew_pending (found : s.reasonOf r i ≠ none) (l : Side) :
    Condition.suspect ∈ ((s.loggedNew r i).controlLink l).pending :=
  State.logCrossing_grows _ _ _ _ l _ (State.markNew_pending _ found _ l)

theorem isShown_iff (course : Course) (x : Runner) (p : Point) (c : Crossing) : isShown course x p c b = true ↔
    c.suspect = none ∧ b = false ∧ (x.status = .running ∨ x.status = .finished) ∧
      ∃ e, course[p] = some e ∧ e.display = true := by
  simp only [isShown, Bool.and_eq_true, Bool.or_eq_true, beq_iff_eq, Option.isNone_iff_eq_none, Bool.not_eq_true',
    Option.any_eq_true, and_assoc]

/-- What recording leaves of the state, whether or not the crossing is shown. -/
theorem State.recordNew_kept {bib : Half} (hr : s.runner bib = some r) :
    let t := s.recordNew r i b
    t.runner bib = some (s.crossedNew r i) ∧ (∀ other, other ≠ bib → t.runner other = s.runner other) ∧
    t.registry.counters = (s.placedFor (s.reasonOf r i) i.point none).registry.counters ∧ t.park = s.park := by
  intro t
  have display : DisplayOnly (s.loggedNew r i) t := by
    rw [show t = _ from s.recordNew_eq r i b]
    exact State.handOffIf_display _ _ _ _ _
  have registry := display.registry.trans (s.loggedNew_registry r i)
  obtain ⟨own, others⟩ := State.runner_of_putRunner registry (s.placedFor_runner _ _ _) hr (Runner.crossed_bib _ _ _ _)
  exact ⟨own, others, by rw [registry]; rfl, display.park.trans (s.loggedNew_park r i)⟩

end

/-! ## The hand-off to the screens (R101, R140) -/

theorem Profile.takes_iff (prof : Profile) (r : Runner) (p : Point) (estimated : Bool) :
    prof.takes r p estimated = true ↔ prof.enabled = true ∧ prof.trigger = p ∧ r.wave ∈ prof.waves ∧
      (estimated = false ∨ prof.showEstimated = true) := by
  simp only [Profile.takes, Bool.and_eq_true, Bool.or_eq_true, beq_iff_eq, Bool.not_eq_true', List.contains_iff_mem,
    and_assoc]

section
variable {s : State} {k : ScreenNo} {r : Runner} {p : Point} {c : Crossing}

theorem offerTo_of_not_taken (h : ¬ s.screens[k].profile.takes r p c.estimated = true) : offerTo s k r p c = none :=
  if_neg h

theorem offerTo_of_taken (h : s.screens[k].profile.takes r p c.estimated = true) : offerTo s k r p c =
    (buildItem s s.screens[k].profile r p c).map (s.screens[k].offer s.now) := if_pos h

theorem buildItem_of_net (prof : Profile) {net place : Nat} {fromGun : Bool}
    (hnet : netTime r.crossings s.clock.guns[r.wave] c.time = some (net, fromGun)) (hplace : c.place = some place) :
    let seg := segment s.registry.course r.crossings p c.time
    buildItem s prof r p c = some {
      bib := r.bib, name := r.name, point := p, netSeconds := net / 1000, pace := seg.bind pace
      projected := if prof.showProjection = true then
        projection s.registry.course s.registry.limits.projectionFloor p (some net) else none
      place := place, priority := decide (r.bib ∈ s.control.watchList), estimated := c.estimated, fromGun := fromGun
      due := dueTime c.time (travelTime prof.gap prof.defaultPace seg) prof.lead, created := s.clock.value } := by
  unfold buildItem
  simp only [hnet, hplace, ← List.contains_eq_mem]
  rfl

end

/-! ## The offer of an item (R142, R143) -/

theorem clearLines_sameSplit (item : DisplayItem) (lines : List (Option ShownItem)) :
    clearLines (sameSplit item) lines = lines.map fun y => match y with
      | some z => if z.item.bib = item.bib ∧ z.item.point = item.point then none else some z
      | none => none := by
  refine List.map_congr_left fun y _ => ?_
  cases y with
  | none => rfl
  | some z => simp only [lineHolds, Option.any_some, sameSplit, Bool.and_eq_true, beq_iff_eq]

/-- An offer that is not stale, by what it finds on the screen (R142). -/
theorem Screen.offer_of_fresh (x : Screen) {now : Nat} {item : DisplayItem} (h : now ≤ item.due + x.profile.stale) :
    let lines := clearLines (sameSplit item) x.lines
    let queued := enqueue item (x.queue.filter fun y => ¬ (y.bib = item.bib ∧ y.point = item.point))
    let head := considerHead x.profile now queued.1 lines
    x.offer now item = {
      screen := x.withHead head, counts := queued.2 ++ head.counts, rises := decide (lines ≠ x.lines) || head.changed
      full := decide (TallyClass.itemDropped ∈ queued.2) } := by
  intro lines queued head
  have kept : (x.queue.filter fun y => !sameSplit item y) =
      x.queue.filter fun y => ¬ (y.bib = item.bib ∧ y.point = item.point) :=
    List.filter_congr fun y _ => by rw [decide_not, Bool.decide_and]; rfl
  have emptied : x.lines.any (lineHolds (sameSplit item)) = decide (lines ≠ x.lines) := by
    have same := clearLines_eq_self_iff (sameSplit item) x.lines
    cases holds : x.lines.any (lineHolds (sameSplit item)) with
    | false => exact (decide_eq_false (not_not.mpr (same.mpr holds))).symm
    | true =>
      have changed : lines ≠ x.lines := fun unchanged => nomatch holds.symm.trans (same.mp unchanged)
      exact (decide_eq_true changed).symm
  have fresh : isStale x.profile now item = false := decide_eq_false (not_lt.mpr h)
  unfold Screen.offer
  rw [fresh, kept, emptied]
  simp only [List.contains_eq_mem]
  rfl

section
variable {x : DisplayItem} {queue : List DisplayItem}

/-- The item may be the candidate of a full queue to which `x` is offered (R143). -/
def mayDrop (x : DisplayItem) (queue : List DisplayItem) (y : DisplayItem) : Bool :=
  (x.priority && queue.all fun z => z.priority) || !y.priority

theorem mayDrop_iff (y : DisplayItem) : mayDrop x queue y = true ↔
    (x.priority = true ∧ ∀ z ∈ queue, z.priority = true) ∨ y.priority = false := by
  simp only [mayDrop, Bool.or_eq_true, Bool.and_eq_true, List.all_eq_true, Bool.not_eq_true']

theorem enqueue_of_room (h : queue.length < 64) : enqueue x queue = (insertDue x queue, [.itemQueued]) := if_pos h

theorem enqueue_of_found (full : 64 ≤ queue.length) {y : DisplayItem}
    (found : queue.reverse.find? (mayDrop x queue) = some y) : enqueue x queue =
      if mayDrop x queue x = true ∧ y.due ≤ x.due then (queue, [.itemDropped])
      else (insertDue x (removeLast (mayDrop x queue) queue), [.itemDropped, .itemQueued]) := by
  unfold mayDrop at found
  unfold enqueue
  rw [if_neg (not_lt.mpr full)]
  simp only [found, mayDrop, Bool.and_eq_true, decide_eq_true_eq]
  rfl

theorem enqueue_of_none_found (full : 64 ≤ queue.length) (absent : queue.reverse.find? (mayDrop x queue) = none) :
    enqueue x queue = (queue, [.itemDropped]) := by
  unfold mayDrop at absent
  unfold enqueue
  rw [if_neg (not_lt.mpr full)]
  simp only [absent]

/-- A full queue without a later candidate drops the item offered (R143). -/
theorem enqueue_of_last (full : 64 ≤ queue.length) (own : mayDrop x queue x = true)
    (last : ∀ y ∈ queue, mayDrop x queue y = true → y.due ≤ x.due) : enqueue x queue = (queue, [.itemDropped]) := by
  cases found : queue.reverse.find? (mayDrop x queue) with
  | none => exact enqueue_of_none_found full found
  | some y =>
    have due := last y (List.mem_reverse.mp (List.mem_of_find?_eq_some found)) (List.find?_some found)
    exact (enqueue_of_found full found).trans (if_pos ⟨own, due⟩)

theorem find?_reverse_of_last {α : Type} {f : α → Bool} {front back : List α} {y : α} (hy : f y = true)
    (hback : ∀ z ∈ back, f z = false) : (front ++ y :: back).reverse.find? f = some y := by
  have none : back.reverse.find? f = none :=
    List.find?_eq_none.mpr fun z hz => by rw [hback z (List.mem_reverse.mp hz)]; decide
  rw [List.reverse_append, List.reverse_cons, List.append_assoc, List.find?_append, none]
  exact List.find?_cons_of_pos hy

theorem removeLast_of_last {α : Type} {f : α → Bool} {front back : List α} {y : α} (hy : f y = true)
    (hback : ∀ z ∈ back, f z = false) : removeLast f (front ++ y :: back) = front ++ back := by
  rw [removeLast, List.reverse_append, List.reverse_cons, List.append_assoc,
    List.eraseP_append_right _ fun z hz => by rw [hback z (List.mem_reverse.mp hz)]; decide]
  rw [List.singleton_append, List.eraseP_cons_of_pos hy, List.reverse_append, List.reverse_reverse,
    List.reverse_reverse]

/-- A full queue drops its last candidate for an item that is no candidate or earlier (R143). -/
theorem enqueue_of_later {front back : List DisplayItem} {y : DisplayItem} (full : 64 ≤ queue.length)
    (split : queue = front ++ y :: back) (hy : mayDrop x queue y = true) (hback : ∀ z ∈ back, mayDrop x queue z = false)
    (earlier : mayDrop x queue x = true → x.due < y.due) :
    enqueue x queue = (insertDue x (front ++ back), [.itemDropped, .itemQueued]) := by
  have found : queue.reverse.find? (mayDrop x queue) = some y :=
    (congrArg (fun l => l.reverse.find? (mayDrop x queue)) split).trans (find?_reverse_of_last hy hback)
  have removed : removeLast (mayDrop x queue) queue = front ++ back :=
    (congrArg (removeLast (mayDrop x queue)) split).trans (removeLast_of_last hy hback)
  rw [enqueue_of_found full found, removed]
  exact if_neg fun stays => absurd stays.2 (not_le.mpr (earlier stays.1))

end

/-- Settles O26: the record, the watch log, the hand-off, the item, the offer and the queue, one clause each. -/
theorem newCrossingIsRecorded : Obligations.NewCrossingIsRecorded := by
  refine ⟨fun s i b bib r chip runner configured vacant => ?_, fun s r p c => ?_, fun s r p c => ?_, fun s k o => rfl,
    fun x now item => ?_, fun x queue sorted => ?_⟩
  · intro reason n cr x u counted logged shown t
    have recorded : t = s.recordNew r i b := by
      refine (State.takeCrossing_of_known chip runner).trans ((if_pos configured).trans ?_)
      unfold State.applyCrossing
      simp only [vacant]
    have placed : s.placedFor (s.reasonOf r i) i.point none = u :=
      if_congr (and_iff_left rfl) rfl rfl
    have logs : s.loggedNew r i = logged :=
      congrArg (fun v : State => ((v.markNew reason i.point).putRunner x).logCrossing x i.point cr) placed
    have shows : isShown s.registry.course (s.crossedNew r i) i.point (s.judgedNew r i) b = true ↔ shown :=
      isShown_iff b _ _ _ _
    have handed : t = (s.loggedNew r i).handOffIf _ _ _ _ := recorded.trans (s.recordNew_eq r i b)
    have logged_of_hidden : ¬ shown → t = logged := fun hidden =>
      handed.trans ((if_neg fun seen => hidden (shows.mp seen)).trans logs)
    obtain ⟨own, others, counters, park⟩ := s.recordNew_kept r i b runner
    have records : RecordsOnly s t := recorded ▸ s.recordNew_records r i b
    rw [← recorded] at own others counters park
    refine ⟨fun seen => ?_, logged_of_hidden, own, others, placed ▸ counters, fun found l => ?_, records.clock,
      records.intake, records.align, records.passage, park, records.store, records.course, records.chipMap,
      records.token, records.watchList⟩
    · rw [← logs]
      exact handed.trans (if_pos (shows.mpr seen))
    · have hasReason : s.reasonOf r i ≠ none := Option.isSome_iff_ne_none.mp found
      rw [logged_of_hidden fun seen => hasReason seen.1, ← logs]
      exact s.loggedNew_pending r i hasReason l
  · intro entry full
    refine ⟨fun h => State.logCrossing_of_unwatched h p c, fun watched room => ?_, fun watched full off => ?_,
      fun watched full on => ?_⟩
    · exact (State.logCrossing_of_watched watched p c).trans (if_pos (not_le.mp room))
    · rw [State.logCrossing_of_watched watched, State.appendWatch_of_full full, off]
      rfl
    · rw [State.logCrossing_of_watched watched, State.appendWatch_of_full full, on]
      show s.withControl { s.control with overflow := true } = s
      rw [← on]
      rfl
  · intro handed
    have hands : handed = ((handToScreens r p c (List.finRange 8) s).1, (handToScreens r p c (List.finRange 8) s).2) :=
      handToScreens_eq_foldl r p c (List.finRange 8) s false
    refine ⟨?_, fun k => ⟨fun not => ?_, fun net fromGun place taken hnet hplace => ?_⟩⟩
    · rw [hands]
      rfl
    · exact offerTo_of_not_taken fun taken => not ((Profile.takes_iff _ _ _ _).mp taken)
    · rw [offerTo_of_taken ((Profile.takes_iff _ _ _ _).mpr taken), buildItem_of_net _ hnet hplace]
      generalize Machine.segment s.registry.course r.crossings p c.time = seg
      cases seg <;> rfl
  · intro same lines queued head
    refine ⟨fun stale => ?_, fun fresh => ?_⟩
    · exact if_pos (decide_eq_true stale)
    · have cleared : clearLines (sameSplit item) x.lines = lines := clearLines_sameSplit item x.lines
      have closed := x.offer_of_fresh fresh
      rw [cleared] at closed
      exact closed
  · intro eligible
    have candidate : ∀ y, mayDrop x queue y = true ↔ eligible y := mayDrop_iff
    refine ⟨insertDue_split x sorted, enqueue_of_room, fun full own last => ?_,
      fun front y back full split hy _ hback earlier => ?_⟩
    · exact enqueue_of_last full ((candidate x).mpr own) fun y hy may => last y hy ((candidate y).mp may)
    · have after : ∀ z ∈ back, y.due ≤ z.due := by
        rw [split] at sorted
        exact (List.pairwise_cons.mp (List.pairwise_append.mp sorted).2.1).1
      refine enqueue_of_later full split ((candidate y).mpr hy) (fun z hz => ?_) fun own =>
        earlier ((candidate x).mp own)
      exact Bool.eq_false_iff.mpr fun may => absurd (hback z hz ((candidate z).mp may)) (not_lt.mpr (after z hz))

end Sys2Proof.Machine

/-! Reading back what is written: fields, lists, and the arguments of every command kind (13.2, R190). -/

namespace Sys2Proof

set_option Elab.async false

/-! ## Readers and what they read (R186, R190) -/

section
variable {α β : Type}

/-- The reader takes exactly `bs` from the front of any bytes, and reads `a`. -/
def Reads (r : FieldReader α) (bs : List Byte) (a : α) : Prop := ∀ rest, r.run (bs ++ rest) = some (a, rest)

theorem Reads.pure (a : α) : Reads (Pure.pure a) [] a := fun _ => rfl

theorem Reads.bind {r : FieldReader α} {f : α → FieldReader β} {xs ys : List Byte} {a : α} {b : β}
    (first : Reads r xs a) (next : Reads (f a) ys b) : Reads (r >>= f) (xs ++ ys) b := by
  intro rest
  rw [StateT.run_bind, List.append_assoc, first]
  exact next rest

theorem Reads.last {r : FieldReader α} {xs : List Byte} {a : α} (only : Reads r xs a) (f : α → β) :
    Reads (r >>= fun x => Pure.pure (f x)) xs (f a) :=
  List.append_nil xs ▸ only.bind (f := fun x => Pure.pure (f x)) (.pure (f a))

theorem Reads.map {r : FieldReader α} {xs : List Byte} {a : α} (only : Reads r xs a) (f : α → β) :
    Reads (f <$> r) xs (f a) := fun rest => by rw [StateT.run_map, only rest]; rfl

theorem Reads.byte (b : Byte) : Reads readByte (putByte b) b := fun _ => rfl

theorem half_of_bytes (v : Half) : v.extractLsb' 8 8 ++ v.extractLsb' 0 8 = v := by
  ext i hi
  simp only [BitVec.getElem_append, BitVec.getElem_extractLsb']
  grind

theorem word_of_halves (v : Word32) :
    (v.extractLsb' 24 8 ++ v.extractLsb' 16 8) ++ (v.extractLsb' 8 8 ++ v.extractLsb' 0 8) = v := by
  ext i hi
  simp only [BitVec.getElem_append, BitVec.getElem_extractLsb']
  grind

theorem Reads.half (v : Half) : Reads readHalf (putHalf v) v := fun rest =>
  congrArg (fun w => some (w, rest)) (half_of_bytes v)

theorem Reads.word (v : Word32) : Reads readWord (putWord v) v := fun rest =>
  congrArg (fun w => some (w, rest)) (word_of_halves v)

theorem Reads.flag (b : Bool) : Reads readFlag (putFlag b) b := fun _ => by cases b <;> rfl

theorem Reads.opt {put : α → List Byte} {read : FieldReader α} (o : Option α) (h : ∀ a ∈ o, Reads read (put a) a) :
    Reads (readOpt read) (putOpt put o) o := by
  cases o with
  | none => exact fun _ => rfl
  | some a => exact (Reads.byte 1).bind ((h a rfl).map some)

theorem Reads.choice {put : α → List Byte} {read : FieldReader α} (o : Option α) (h : ∀ a, Reads read (put a) a) :
    Reads (readChoice read) (putChoice put o) o := by
  cases o with
  | none => exact fun _ => rfl
  | some a => exact (Reads.byte 1).bind ((h a).map some)

theorem Reads.many {put : α → List Byte} {read : FieldReader α} (h : ∀ a, Reads read (put a) a) (l : List α) :
    Reads (readMany read l.length) (l.flatMap put) l := by
  induction l with
  | nil => exact .pure []
  | cons a l ih => exact (h a).bind (ih.last (a :: ·))

theorem Reads.list {put : α → List Byte} {read : FieldReader α} (h : ∀ a, Reads read (put a) a) {l : List α}
    (fits : fitsCount l = true) : Reads (readList read) (putList put l) l := by
  have count : (BitVec.ofNat 8 l.length).toNat = l.length :=
    Nat.mod_eq_of_lt (Nat.lt_succ_of_le (of_decide_eq_true fits))
  exact (Reads.byte (BitVec.ofNat 8 l.length)).bind (by rw [count]; exact .many h l)

/-- An optional list fits its count byte when the list, or the empty one in its place, does. -/
theorem Reads.optList {put : α → List Byte} {read : FieldReader α} (h : ∀ a, Reads read (put a) a) {o : Option (List α)}
    (fits : fitsCount (o.getD []) = true) : Reads (readOpt (readList read)) (putOpt (putList put) o) o :=
  .opt o fun l hl => .list h (by rw [Option.mem_def.mp hl] at fits; exact fits)

end

theorem Reads.optByte (o : Option Byte) : Reads (readOpt readByte) (putOpt putByte o) o := .opt o fun a _ => .byte a

theorem Reads.optHalf (o : Option Half) : Reads (readOpt readHalf) (putOpt putHalf o) o := .opt o fun a _ => .half a

theorem Reads.optWord (o : Option Word32) : Reads (readOpt readWord) (putOpt putWord o) o := .opt o fun a _ => .word a

theorem Reads.optFlag (o : Option Bool) : Reads (readOpt readFlag) (putOpt putFlag o) o := .opt o fun a _ => .flag a

theorem Reads.optName {o : Option Name} (fits : fitsCount (o.getD []) = true) :
    Reads (readOpt readName) (putOpt putName o) o := optList .byte fits

theorem Reads.bytes {l : List Byte} (fits : fitsCount l = true) : Reads (readList readByte) (putList putByte l) l :=
  .list .byte fits

/-! ## The arguments of the commands (R190) -/

theorem Reads.limits (a : LimitsArgs) : Reads readLimits (putLimits a) a := by
  unfold putLimits readLimits
  simp only [List.append_assoc]
  exact (optHalf _).bind <| (optHalf _).bind <| (optHalf _).bind <| (optHalf _).bind <| (optHalf _).bind <|
    (optHalf _).last fun stale => ({ a with staleHorizon := stale } : LimitsArgs)

theorem Reads.profile {a : ProfileArgs} (fits : fitsCount a.waves = true) : Reads readProfile (putProfile a) a := by
  unfold putProfile readProfile
  simp only [List.append_assoc]
  exact (optFlag _).bind <| (byte _).bind <| (half _).bind <| (half _).bind <| (optHalf _).bind <| (byte _).bind <|
    (optHalf _).bind <| (optHalf _).bind <| (bytes fits).bind <| (flag _).bind <| (flag _).bind <|
    (optHalf _).last fun hold => ({ a with pollHold := hold } : ProfileArgs)

/-- The arguments of a command whose lists fit are read back under its kind (R190). -/
theorem Instr.reads_arguments {i : Instr} {c : CommandBody} (fits : i.countsFit = true) (h : i.commandBody = some c) :
    Reads (readArguments c.link c.tag c.kind) c.args i := by
  cases i
  case readRunner bib => cases h; exact (Reads.half bib).map _
  case readPort port => cases h; exact (Reads.byte port).map _
  case readScreen screen => cases h; exact (Reads.byte screen).map _
  case readParkList start => cases h; exact (Reads.optByte start).map _
  case readWatchLog count => cases h; exact (Reads.byte count).map _
  case ackConditions => cases h; exact (Reads.bytes fits).map _
  case setMask => cases h; exact (Reads.bytes fits).map _
  case startClock preset => cases h; exact (Reads.optWord preset).map _
  case gun l tag wave time => cases h; exact (Reads.byte wave).bind ((Reads.optWord time).last (Instr.gun l tag wave))
  case setPoint l tag point distance policy display =>
    cases h
    simp only [List.append_assoc]
    exact (Reads.byte point).bind <| (Reads.half distance).bind <| (Reads.byte policy).bind <|
      (Reads.flag display).last (Instr.setPoint l tag point distance policy)
  case clearPoint point => cases h; exact (Reads.byte point).map _
  case setPort l tag port point allowance =>
    cases h
    simp only [List.append_assoc]
    exact (Reads.byte port).bind <| (Reads.choice point .byte).bind <|
      (Reads.optHalf allowance).last (Instr.setPort l tag port point)
  case setLimits limits => cases h; exact (Reads.limits limits).map _
  case setProfile l tag screen profile =>
    cases h
    exact (Reads.byte screen).bind ((Reads.profile fits).last (Instr.setProfile l tag screen))
  case register l tag bib wave chips name =>
    cases h
    obtain ⟨chipsFit, nameFits⟩ := Bool.and_eq_true _ _ ▸ fits
    simp only [List.append_assoc]
    exact (Reads.half bib).bind <| (Reads.byte wave).bind <| (Reads.list .word chipsFit).bind <|
      (Reads.optName nameFits).last (Instr.register l tag bib wave chips)
  case remove bib => cases h; exact (Reads.half bib).map _
  case setName l tag bib name =>
    cases h
    exact (Reads.half bib).bind ((Reads.optName fits).last (Instr.setName l tag bib))
  case amend l tag bib point time =>
    cases h
    simp only [List.append_assoc]
    exact (Reads.half bib).bind <| (Reads.byte point).bind <| (Reads.choice (some time) .word).last _
  case amendClear l tag bib point =>
    cases h
    simp only [List.append_assoc]
    exact (Reads.half bib).bind <| (Reads.byte point).bind <| (Reads.choice none .word).last _
  case accept l tag bib point => cases h; exact (Reads.half bib).bind ((Reads.byte point).last (Instr.accept l tag bib))
  case withdraw bib => cases h; exact (Reads.half bib).map _
  case disqualify bib => cases h; exact (Reads.half bib).map _
  case reinstate bib => cases h; exact (Reads.half bib).map _
  case bind l tag chip bib => cases h; exact (Reads.word chip).bind ((Reads.half bib).last (Instr.bind l tag chip))
  case discard chip => cases h; exact (Reads.word chip).map _
  case setWatch => cases h; exact (Reads.list .half fits).map _
  case setTally l tag tally cls qualifiers limit stop =>
    cases h
    simp only [List.append_assoc]
    exact (Reads.byte tally).bind <| (Reads.byte cls).bind <| (Reads.bytes fits).bind <| (Reads.optWord limit).bind <|
      (Reads.flag stop).last (Instr.setTally l tag tally cls qualifiers limit)
  case freeze => cases h; exact (Reads.optList .byte fits).map _
  case status | readTallies | readConditions | claim | seize | release | pass | stopClock | thaw | clearTallies |
      store | raceReset | restart =>
    cases h; exact .pure _
  all_goals exact nomatch h

end Sys2Proof

/-! Messages and their frames, read back by the parser and the receiver (13.1, 13.2). -/

namespace Sys2Proof

set_option Elab.async false

/-! ## Messages (R186, R188) -/

namespace Laws.BodyFits

/-- The body of every message of a well-formed command fits a frame (R186). -/
theorem all : ∀ i, Statement i
  | .powerOn => powerOn
  | .stationReset _ => stationReset _
  | .startUpEnd => startUpEnd
  | .countedMillisecond => countedMillisecond
  | .refLoss => refLoss
  | .refReturn => refReturn
  | .matHello _ => matHello _
  | .read _ _ _ _ _ => read _ _ _ _ _
  | .syncReport _ _ => syncReport _ _
  | .matSilenceDeadline _ => matSilenceDeadline _
  | .discardedFrame _ => discardedFrame _
  | .byteGapTimeout _ => byteGapTimeout _
  | .staleDeadline _ => staleDeadline _
  | .readCompletion => readCompletion
  | .closeDeadline _ _ => closeDeadline _ _
  | .dueDeadline _ => dueDeadline _
  | .lineExpiry _ _ => lineExpiry _ _
  | .screenHello _ => screenHello _
  | .frameRequest _ _ _ => frameRequest _ _ _
  | .holdDeadline _ => holdDeadline _
  | .screenSilenceDeadline _ => screenSilenceDeadline _
  | .controlSilenceDeadline _ => controlSilenceDeadline _
  | .unknownKind _ _ => unknownKind _ _
  | .status _ _ => status _ _
  | .readRunner _ _ _ => readRunner _ _ _
  | .readPort _ _ _ => readPort _ _ _
  | .readScreen _ _ _ => readScreen _ _ _
  | .readParkList _ _ _ => readParkList _ _ _
  | .readTallies _ _ => readTallies _ _
  | .readWatchLog _ _ _ => readWatchLog _ _ _
  | .readConditions _ _ => readConditions _ _
  | .ackConditions _ _ _ => ackConditions _ _ _
  | .setMask _ _ _ => setMask _ _ _
  | .claim _ _ => claim _ _
  | .seize _ _ => seize _ _
  | .release _ _ => release _ _
  | .pass _ _ => pass _ _
  | .startClock _ _ _ => startClock _ _ _
  | .stopClock _ _ => stopClock _ _
  | .gun _ _ _ _ => gun _ _ _ _
  | .setPoint _ _ _ _ _ _ => setPoint _ _ _ _ _ _
  | .clearPoint _ _ _ => clearPoint _ _ _
  | .setPort _ _ _ _ _ => setPort _ _ _ _ _
  | .setLimits _ _ _ => setLimits _ _ _
  | .setProfile _ _ _ _ => setProfile _ _ _ _
  | .register _ _ _ _ _ _ => register _ _ _ _ _ _
  | .remove _ _ _ => remove _ _ _
  | .setName _ _ _ _ => setName _ _ _ _
  | .amend _ _ _ _ _ => amend _ _ _ _ _
  | .amendClear _ _ _ _ => amendClear _ _ _ _
  | .accept _ _ _ _ => accept _ _ _ _
  | .withdraw _ _ _ => withdraw _ _ _
  | .disqualify _ _ _ => disqualify _ _ _
  | .reinstate _ _ _ => reinstate _ _ _
  | .bind _ _ _ _ => bind _ _ _ _
  | .discard _ _ _ => discard _ _ _
  | .setWatch _ _ _ => setWatch _ _ _
  | .setTally _ _ _ _ _ _ _ => setTally _ _ _ _ _ _ _
  | .freeze _ _ _ => freeze _ _ _
  | .thaw _ _ => thaw _ _
  | .clearTallies _ _ => clearTallies _ _
  | .store _ _ => store _ _
  | .eraseCompletion => eraseCompletion
  | .writeCompletion => writeCompletion
  | .raceReset _ _ => raceReset _ _
  | .raceResetCompletion => raceResetCompletion
  | .restart _ _ => restart _ _
  | .runnerRecordClearing _ => runnerRecordClearing _

end Laws.BodyFits

theorem readBody_of_reads {r : FieldReader Instr} {body : List Byte} {i : Instr} (h : Reads r body i) :
    readBody r body = some i := by
  have whole := h []
  rw [List.append_nil] at whole
  unfold readBody
  rw [whole]

theorem parseCommand_of_reads {l : Side} {tag kind : Byte} {args : List Byte} {i : Instr}
    (h : Reads (readArguments l tag kind.toNat) args i) : parseCommand l (tag :: kind :: args) = some i := by
  have whole := h []
  rw [List.append_nil] at whole
  unfold parseCommand
  simp only [whole]

/-- The kinds of the commands are the numbers 1 to 40 (R190). -/
theorem Instr.commandBody_kind {i : Instr} {c : CommandBody} (h : i.commandBody = some c) : c.kind ≤ 40 := by
  cases i <;> cases h <;> exact Nat.le_of_ble_eq_true rfl

theorem parse_commandBody {i : Instr} {c : CommandBody} (fits : i.countsFit = true) (h : i.commandBody = some c) :
    parseMessage (.control c.link) 0x21 (c.tag :: BitVec.ofNat 8 c.kind :: c.args) = some i := by
  have kind : (BitVec.ofNat 8 c.kind).toNat = c.kind :=
    Nat.mod_eq_of_lt ((Instr.commandBody_kind h).trans_lt (by decide))
  exact parseCommand_of_reads (kind.symm ▸ Instr.reads_arguments fits h)

theorem parseMessage_read (p : Port) (body : List Byte) : parseMessage (.mat p) 0x02 body = readBody (do
    let seq ← readByte
    let chip ← readWord
    let dtime ← readWord
    let level ← readByte
    pure (.read p seq chip dtime level)) body := rfl

theorem parseMessage_frameRequest (k : ScreenNo) (body : List Byte) : parseMessage (.screen k) 0x12 body = readBody (do
    let last ← readHalf
    let wait ← readByte
    pure (.frameRequest k last (wait != 0))) body := rfl

/-- The message of a command is read back as the command (R186, R188, R190). -/
theorem parseMessage_of_message {i : Instr} {m : Message} (fits : i.countsFit = true) (h : i.message = some m) :
    parseMessage m.link m.kind m.body = some i := by
  cases i
  case matHello p => cases h; exact readBody_of_reads (.pure _)
  case read p seq chip dtime level =>
    cases h
    refine (parseMessage_read p _).trans (readBody_of_reads ?_)
    simp only [List.append_assoc]
    exact (Reads.byte seq).bind <| (Reads.word chip).bind <| (Reads.word dtime).bind <|
      (Reads.byte level).last (Instr.read p seq chip dtime)
  case syncReport p dtime => cases h; exact readBody_of_reads ((Reads.word dtime).map (Instr.syncReport p))
  case screenHello k => cases h; exact readBody_of_reads (.pure _)
  case frameRequest k last wait =>
    cases h
    have flag : ((if wait then 1 else 0 : Byte) != 0) = wait := by cases wait <;> rfl
    have waits := (Reads.byte (if wait then 1 else 0)).last fun w => Instr.frameRequest k last (w != 0)
    rw [flag] at waits
    exact (parseMessage_frameRequest k _).trans (readBody_of_reads ((Reads.half last).bind waits))
  all_goals
    simp only [Instr.message, Option.map_eq_some_iff] at h
    obtain ⟨c, command, rfl⟩ := h
    exact parse_commandBody fits command

/-! ## Frames (R186, R187) -/

section
variable (kind : Byte) (body : List Byte)

/-- The check that ends the frame of a message (R186). -/
def frameCheck : List Byte := putHalf (crc16 (kind :: (putHalf (BitVec.ofNat 16 body.length) ++ body)))

theorem frameBytes_eq : frameBytes kind body = startByte :: kind :: (BitVec.ofNat 16 body.length).extractLsb' 8 8 ::
    (BitVec.ofNat 16 body.length).extractLsb' 0 8 :: (body ++ frameCheck kind body) := rfl

theorem frameBytes_length : (frameBytes kind body).length = body.length + 6 := by
  rw [frameBytes_eq]
  simp only [List.length_cons, List.length_append, frameCheck, putHalf_length]

theorem frameLength_frameBytes (short : body.length ≤ Config.maxBody) :
    frameLength (frameBytes kind body) = some body.length := by
  rw [frameBytes_eq]
  show some (BitVec.toNat (_ ++ _)) = _
  rw [half_of_bytes, BitVec.toNat_ofNat, Nat.mod_eq_of_lt (short.trans_lt (by decide))]

theorem frameBytes_body : ((frameBytes kind body).drop 4).take body.length = body := by
  rw [frameBytes_eq]
  exact List.take_left' rfl

end

/-- Bytes that arrive together have no gap between them (R187). -/
theorem hasGap_of_together {time : Nat} {bs : List TimedByte} (together : ∀ x ∈ bs, x.at_ = time) :
    hasGap bs = false := by
  induction bs with
  | nil => rfl
  | cons x rest ih =>
    cases rest with
    | nil => rfl
    | cons y rest =>
      have hx := together x (.head _)
      have hy := together y (.tail _ (.head _))
      rw [hasGap, ih fun z hz => together z (.tail _ hz), Bool.or_false, hx, hy]
      exact decide_eq_false (by omega)

/-- A frame whose bytes arrive together comes to its message, unless start-up bars it (R185, R187). -/
theorem gatherFrame_of_frame {link : LinkId} {kind : Byte} {body : List Byte} {i : Instr} {bs : List TimedByte}
    (now : Nat) {time : Nat} (together : ∀ x ∈ bs, x.at_ = time)
    (bytes : (bs.map fun x => x.byte) = frameBytes kind body)
    (short : body.length ≤ Config.maxBody) (parsed : parseMessage link kind body = some i) :
    gatherFrame link now bs = if barredByStartUp link bs then .discarded else .message i bs.length := by
  have size : bs.length = body.length + 6 := by
    rw [← frameBytes_length kind body, ← bytes, List.length_map]
  have noGap : hasGap bs = false := hasGap_of_together together
  have noGapHead : hasGap (bs.take 4) = false :=
    hasGap_of_together fun x hx => together x (List.mem_of_mem_take hx)
  have whole : bs.take (body.length + 6) = bs := List.take_of_length_le size.le
  unfold gatherFrame
  simp only [bytes, frameLength_frameBytes kind body short, noGap, noGapHead, whole, size, lt_irrefl, not_lt.mpr short,
    Bool.false_eq_true, if_false, frameBytes_body]
  refine if_congr Iff.rfl rfl ?_
  rw [frameBytes_eq]
  simp only [← frameBytes_eq, parsed, if_true]

section
variable (link : LinkId) (now : Nat) {n : Nat} {b : TimedByte} {rest : List TimedByte}

theorem receive_of_message {i : Instr} (start : b.byte = startByte)
    (gathered : gatherFrame link now (b :: rest) = .message i (b :: rest).length) :
    receive link now (b :: rest) = [i] := by
  unfold receive
  rw [List.length_cons, receiveUpTo, if_pos start, gathered]
  simp only [List.drop_length]
  cases rest <;> rfl

theorem receive_of_discarded (start : b.byte = startByte) (gathered : gatherFrame link now (b :: rest) = .discarded) :
    receive link now (b :: rest) = .discardedFrame link :: receive link now rest := by
  unfold receive
  rw [List.length_cons, receiveUpTo, if_pos start, gathered]

end

/-- Settles O60: the parser reads the body back, and the receiver finds the one frame in the bytes. -/
theorem messagesRoundTrip : Obligations.MessagesRoundTrip := by
  intro i m now time wellFormed message bytes
  have parsed := parseMessage_of_message (Instr.wellFormed_counts wellFormed) message
  have short := Laws.BodyFits.all i wellFormed m message
  have gathered : ∀ startUp, gatherFrame m.link now (bytes startUp) =
      if barredByStartUp m.link (bytes startUp) then .discarded else .message i (bytes startUp).length := by
    intro startUp
    refine gatherFrame_of_frame now (time := time) (fun x hx => ?_) ?_ short parsed
    · obtain ⟨b, -, rfl⟩ := List.mem_map.mp hx
      rfl
    · exact (List.map_map ..).trans (List.map_id _)
  have accepted : ∀ startUp, barredByStartUp m.link (bytes startUp) = false →
      receive m.link now (bytes startUp) = [i] := fun startUp unbarred =>
    receive_of_message m.link now rfl ((gathered startUp).trans (if_neg (by rw [unbarred]; decide)))
  have last : ∀ startUp, ((bytes startUp).getLast?.any fun x => x.startUp) = startUp := fun startUp => by
    rw [show bytes startUp = _ from List.map_cons .., List.getLast?_cons, Option.any_some, List.getLast?_map]
    cases (List.getLast? _) <;> rfl
  refine ⟨parsed, accepted false ?_, fun p mat => accepted true ?_, fun noMat => ?_⟩
  · cases hl : m.link with
    | mat p => rfl
    | screen k => exact last false
    | control l => exact last false
  · rw [mat]
    rfl
  · have barred : barredByStartUp m.link (bytes true) = true := by
      cases hl : m.link with
      | mat p => exact absurd hl (noMat p)
      | screen k => exact last true
      | control l => exact last true
    exact receive_of_discarded m.link now rfl ((gathered true).trans (if_pos barred))

end Sys2Proof
